-- ==== Sys2Proof/Word.lean ====
section
/-! DEFINITION. The word types of the block (00_scope.md R11): every value is an unsigned bit vector. -/

namespace Sys2Proof

/-- u8: one stored byte. -/
abbrev Byte := BitVec 8

/-- u16: a colour word (10_state.md R43). -/
abbrev Half := BitVec 16

/-- u32: a request word (30_encoding.md R110). -/
abbrev Word := BitVec 32

/-- u2: a colour index, a shade, a P1 line value or an attribute cell. -/
abbrev U2 := BitVec 2

end Sys2Proof
end

