-- ==== Sys2Proof/Syntax.lean ====
section
/-! DEFINITION. The requests of the block as syntax: one constructor per row of spec/opcode_table.json, its
operands at the widths of the formats of 30_encoding.md R112 to R122. -/

namespace Sys2Proof

/-- The agent tag of a request (30_encoding.md R110, 60_exceptions.md R410). -/
inductive Agent where
  | owner
  | observer
  deriving DecidableEq, Repr

/-- The palette RAM a PAL_RD or PAL_WR names (30_encoding.md R114): `sel` 0 is BGPAL, 1 is OBJPAL. -/
inductive PalTable where
  | bg
  | obj
  deriving DecidableEq, Repr

/-- The 28 requests (30_encoding.md R123). -/
inductive Instr where
  | vramRd (bank : BitVec 4) (addr : BitVec 14)
  | vramWr (bank : BitVec 4) (addr : BitVec 14) (data : Byte)
  | oamRd (index : Byte)
  | oamWr (index : Byte) (data : Byte)
  | eramRd (bank : BitVec 4) (addr : BitVec 14)
  | eramWr (bank : BitVec 4) (addr : BitVec 14) (data : Byte)
  | eramfRd (faddr : BitVec 17)
  | eramfWr (faddr : BitVec 17) (data : Byte)
  | ioRd (index : Byte)
  | ioWr (index : Byte) (data : Byte)
  | palRd (sel : PalTable) (index : Byte)
  | palWr (sel : PalTable) (index : Byte) (data : Byte)
  | resolveColor (spr : Bool) (pal : BitVec 3) (ci : U2)
  | resolveBgColor (attr : Byte) (ci : U2)
  | resolveSgbColor (tx : BitVec 5) (ty : BitVec 5) (shade : U2)
  | decodeTileRow (bank : BitVec 1) (tile : BitVec 9) (row : BitVec 3) (hflip : Bool) (vflip : Bool)
  | decodeSprite (obj : BitVec 6)
  | spriteVisible (obj : BitVec 6)
  | rasterSprite (obj : BitVec 6)
  | composePixel (bgci : U2) (bgpri : Bool) (objci : U2) (objpri : Bool)
  | sgbInit
  | sgbEnd
  | sgbStatus
  | sgbPalRd (p : BitVec 3) (c : BitVec 4)
  | sgbSnespalRd (n : BitVec 9) (c : U2)
  | sgbAtfRd (n : BitVec 6) (tx : BitVec 5) (ty : BitVec 5)
  | sgbCuratfRd (tx : BitVec 5) (ty : BitVec 5)
  | sgbPktRd (p : BitVec 3) (b : BitVec 4)
  deriving DecidableEq, Repr

/-- What the driver presents at the port: a word and the side-band agent tag (30_encoding.md R110). -/
structure Request where
  word : Word
  agent : Agent
  deriving DecidableEq, Repr

end Sys2Proof
end

