-- ==== Sys2Proof/Decode.lean ====
section
/-! DEFINITION. The request word: decoder and encoder, both from the formats of 30_encoding.md R112 to R122,
and the opcode map of R123 with its match and mask columns. -/

namespace Sys2Proof

/-- Why a word is no request; both are IllegalRequest at the port (30_encoding.md R111). -/
inductive DecodeError where
  /-- The opcode is assigned to no request. -/
  | unassignedOpcode
  /-- A bit the format marks `res` is set. -/
  | reservedBits
  deriving DecidableEq, Repr

/-- The field of `n` bits of `w` whose lowest bit is `lo`. -/
def fieldAt (w : Word) (lo n : Nat) : BitVec n := w.extractLsb' lo n

/-- A one-bit flag of `w`. -/
def flagAt (w : Word) (i : Nat) : Bool := w.getLsbD i

/-- The bits `lo .. lo + n - 1`, marked `res` by a format, are all 0. -/
def resZero (w : Word) (lo n : Nat) : Bool := decide (w.extractLsb' lo n = 0)

/-- `sel` of format X. -/
def palTableOf (b : Bool) : PalTable := if b then .obj else .bg

/-- The decoded request, if its reserved bits are 0 (30_encoding.md R111). -/
def ifReserved (ok : Bool) (i : Instr) : Except DecodeError Instr :=
  if ok then .ok i else .error .reservedBits

/-- The request a word spells (30_encoding.md R110 to R124 steps 1 and 2). Total; rejects by name. -/
def decode (w : Word) : Except DecodeError Instr :=
  match (fieldAt w 26 6).toNat with
  | 0x01 => ifReserved (resZero w 0 8) (.vramRd (fieldAt w 22 4) (fieldAt w 8 14))
  | 0x02 => .ok (.vramWr (fieldAt w 22 4) (fieldAt w 8 14) (fieldAt w 0 8))
  | 0x03 => ifReserved (resZero w 25 1 && resZero w 16 9 && resZero w 0 8) (.oamRd (fieldAt w 8 8))
  | 0x04 => ifReserved (resZero w 25 1 && resZero w 16 9) (.oamWr (fieldAt w 8 8) (fieldAt w 0 8))
  | 0x05 => ifReserved (resZero w 0 8) (.eramRd (fieldAt w 22 4) (fieldAt w 8 14))
  | 0x06 => .ok (.eramWr (fieldAt w 22 4) (fieldAt w 8 14) (fieldAt w 0 8))
  | 0x07 => ifReserved (resZero w 25 1 && resZero w 0 8) (.eramfRd (fieldAt w 8 17))
  | 0x08 => ifReserved (resZero w 25 1) (.eramfWr (fieldAt w 8 17) (fieldAt w 0 8))
  | 0x09 => ifReserved (resZero w 25 1 && resZero w 16 9 && resZero w 0 8) (.ioRd (fieldAt w 8 8))
  | 0x0A => ifReserved (resZero w 25 1 && resZero w 16 9) (.ioWr (fieldAt w 8 8) (fieldAt w 0 8))
  | 0x0B => ifReserved (resZero w 16 9 && resZero w 0 8) (.palRd (palTableOf (flagAt w 25)) (fieldAt w 8 8))
  | 0x0C => ifReserved (resZero w 16 9) (.palWr (palTableOf (flagAt w 25)) (fieldAt w 8 8) (fieldAt w 0 8))
  | 0x10 => ifReserved (resZero w 0 20) (.resolveColor (flagAt w 25) (fieldAt w 22 3) (fieldAt w 20 2))
  | 0x11 => ifReserved (resZero w 0 16) (.resolveBgColor (fieldAt w 18 8) (fieldAt w 16 2))
  | 0x12 => ifReserved (resZero w 0 14) (.resolveSgbColor (fieldAt w 21 5) (fieldAt w 16 5) (fieldAt w 14 2))
  | 0x18 => ifReserved (resZero w 0 11)
      (.decodeTileRow (fieldAt w 25 1) (fieldAt w 16 9) (fieldAt w 13 3) (flagAt w 12) (flagAt w 11))
  | 0x20 => ifReserved (resZero w 0 20) (.decodeSprite (fieldAt w 20 6))
  | 0x21 => ifReserved (resZero w 0 20) (.spriteVisible (fieldAt w 20 6))
  | 0x22 => ifReserved (resZero w 0 20) (.rasterSprite (fieldAt w 20 6))
  | 0x23 => ifReserved (resZero w 0 20)
      (.composePixel (fieldAt w 24 2) (flagAt w 23) (fieldAt w 21 2) (flagAt w 20))
  | 0x28 => ifReserved (resZero w 0 26) .sgbInit
  | 0x29 => ifReserved (resZero w 0 26) .sgbEnd
  | 0x2A => ifReserved (resZero w 0 26) .sgbStatus
  | 0x2B => ifReserved (resZero w 0 19) (.sgbPalRd (fieldAt w 23 3) (fieldAt w 19 4))
  | 0x2C => ifReserved (resZero w 0 15) (.sgbSnespalRd (fieldAt w 17 9) (fieldAt w 15 2))
  | 0x2D => ifReserved (resZero w 0 10) (.sgbAtfRd (fieldAt w 20 6) (fieldAt w 15 5) (fieldAt w 10 5))
  | 0x2E => ifReserved (resZero w 0 16) (.sgbCuratfRd (fieldAt w 21 5) (fieldAt w 16 5))
  | 0x2F => ifReserved (resZero w 0 19) (.sgbPktRd (fieldAt w 23 3) (fieldAt w 19 4))
  | _ => .error .unassignedOpcode

/-- A value written into a word with its lowest bit at `lo`. -/
def place {n : Nat} (lo : Nat) (v : BitVec n) : Word := v.setWidth 32 <<< lo

/-- `sel` of format X as the bit a word holds. -/
def palTableBit (t : PalTable) : BitVec 1 :=
  match t with
  | .bg => 0
  | .obj => 1

/-- The opcode of a request (30_encoding.md R123). -/
def opcodeOf : Instr → BitVec 6
  | .vramRd _ _ => 0x01
  | .vramWr _ _ _ => 0x02
  | .oamRd _ => 0x03
  | .oamWr _ _ => 0x04
  | .eramRd _ _ => 0x05
  | .eramWr _ _ _ => 0x06
  | .eramfRd _ => 0x07
  | .eramfWr _ _ => 0x08
  | .ioRd _ => 0x09
  | .ioWr _ _ => 0x0A
  | .palRd _ _ => 0x0B
  | .palWr _ _ _ => 0x0C
  | .resolveColor _ _ _ => 0x10
  | .resolveBgColor _ _ => 0x11
  | .resolveSgbColor _ _ _ => 0x12
  | .decodeTileRow _ _ _ _ _ => 0x18
  | .decodeSprite _ => 0x20
  | .spriteVisible _ => 0x21
  | .rasterSprite _ => 0x22
  | .composePixel _ _ _ _ => 0x23
  | .sgbInit => 0x28
  | .sgbEnd => 0x29
  | .sgbStatus => 0x2A
  | .sgbPalRd _ _ => 0x2B
  | .sgbSnespalRd _ _ => 0x2C
  | .sgbAtfRd _ _ _ => 0x2D
  | .sgbCuratfRd _ _ => 0x2E
  | .sgbPktRd _ _ => 0x2F

/-- The operand fields of a request in their places, every other bit 0 (30_encoding.md R112 to R122). -/
def operandsOf : Instr → Word
  | .vramRd bank addr => place 22 bank ||| place 8 addr
  | .vramWr bank addr data => place 22 bank ||| place 8 addr ||| place 0 data
  | .oamRd index => place 8 index
  | .oamWr index data => place 8 index ||| place 0 data
  | .eramRd bank addr => place 22 bank ||| place 8 addr
  | .eramWr bank addr data => place 22 bank ||| place 8 addr ||| place 0 data
  | .eramfRd faddr => place 8 faddr
  | .eramfWr faddr data => place 8 faddr ||| place 0 data
  | .ioRd index => place 8 index
  | .ioWr index data => place 8 index ||| place 0 data
  | .palRd sel index => place 25 (palTableBit sel) ||| place 8 index
  | .palWr sel index data => place 25 (palTableBit sel) ||| place 8 index ||| place 0 data
  | .resolveColor spr pal ci => place 25 (BitVec.ofBool spr) ||| place 22 pal ||| place 20 ci
  | .resolveBgColor attr ci => place 18 attr ||| place 16 ci
  | .resolveSgbColor tx ty shade => place 21 tx ||| place 16 ty ||| place 14 shade
  | .decodeTileRow bank tile row hflip vflip =>
      place 25 bank ||| place 16 tile ||| place 13 row ||| place 12 (BitVec.ofBool hflip)
        ||| place 11 (BitVec.ofBool vflip)
  | .decodeSprite obj => place 20 obj
  | .spriteVisible obj => place 20 obj
  | .rasterSprite obj => place 20 obj
  | .composePixel bgci bgpri objci objpri =>
      place 24 bgci ||| place 23 (BitVec.ofBool bgpri) ||| place 21 objci ||| place 20 (BitVec.ofBool objpri)
  | .sgbInit => 0
  | .sgbEnd => 0
  | .sgbStatus => 0
  | .sgbPalRd p c => place 23 p ||| place 19 c
  | .sgbSnespalRd n c => place 17 n ||| place 15 c
  | .sgbAtfRd n tx ty => place 20 n ||| place 15 tx ||| place 10 ty
  | .sgbCuratfRd tx ty => place 21 tx ||| place 16 ty
  | .sgbPktRd p b => place 23 p ||| place 19 b

/-- The word of a request. -/
def encode (i : Instr) : Word := place 26 (opcodeOf i) ||| operandsOf i

/-- Only the Owner may issue the request (30_encoding.md R123, column `agent`; 60_exceptions.md R411). -/
def ownerOnly : Instr → Bool
  | .vramWr _ _ _ => true
  | .oamWr _ _ => true
  | .eramWr _ _ _ => true
  | .eramfWr _ _ => true
  | .ioWr _ _ => true
  | .palWr _ _ _ => true
  | .sgbInit => true
  | .sgbEnd => true
  | .vramRd _ _ => false
  | .oamRd _ => false
  | .eramRd _ _ => false
  | .eramfRd _ => false
  | .ioRd _ => false
  | .palRd _ _ => false
  | .resolveColor _ _ _ => false
  | .resolveBgColor _ _ => false
  | .resolveSgbColor _ _ _ => false
  | .decodeTileRow _ _ _ _ _ => false
  | .decodeSprite _ => false
  | .spriteVisible _ => false
  | .rasterSprite _ => false
  | .composePixel _ _ _ _ => false
  | .sgbStatus => false
  | .sgbPalRd _ _ => false
  | .sgbSnespalRd _ _ => false
  | .sgbAtfRd _ _ _ => false
  | .sgbCuratfRd _ _ => false
  | .sgbPktRd _ _ => false

/-- One row of the opcode map of 30_encoding.md R123. -/
structure OpRow where
  mnemonic : String
  op : BitVec 6
  matchBits : Word
  mask : Word
  deriving DecidableEq, Repr

/-- The opcode map, its match and mask columns copied from 30_encoding.md R123. The decoder does not read
it: it stands here as the second account of the encoding that the decoder is held against. -/
def opcodeMap : List OpRow :=
  [⟨"VRAM_RD", 0x01, 0x04000000, 0xFC0000FF⟩,
   ⟨"VRAM_WR", 0x02, 0x08000000, 0xFC000000⟩,
   ⟨"OAM_RD", 0x03, 0x0C000000, 0xFFFF00FF⟩,
   ⟨"OAM_WR", 0x04, 0x10000000, 0xFFFF0000⟩,
   ⟨"ERAM_RD", 0x05, 0x14000000, 0xFC0000FF⟩,
   ⟨"ERAM_WR", 0x06, 0x18000000, 0xFC000000⟩,
   ⟨"ERAMF_RD", 0x07, 0x1C000000, 0xFE0000FF⟩,
   ⟨"ERAMF_WR", 0x08, 0x20000000, 0xFE000000⟩,
   ⟨"IO_RD", 0x09, 0x24000000, 0xFFFF00FF⟩,
   ⟨"IO_WR", 0x0A, 0x28000000, 0xFFFF0000⟩,
   ⟨"PAL_RD", 0x0B, 0x2C000000, 0xFDFF00FF⟩,
   ⟨"PAL_WR", 0x0C, 0x30000000, 0xFDFF0000⟩,
   ⟨"RESOLVE_COLOR", 0x10, 0x40000000, 0xFC0FFFFF⟩,
   ⟨"RESOLVE_BG_COLOR", 0x11, 0x44000000, 0xFC00FFFF⟩] ++
  [⟨"RESOLVE_SGB_COLOR", 0x12, 0x48000000, 0xFC003FFF⟩,
   ⟨"DECODE_TILE_ROW", 0x18, 0x60000000, 0xFC0007FF⟩,
   ⟨"DECODE_SPRITE", 0x20, 0x80000000, 0xFC0FFFFF⟩,
   ⟨"SPRITE_VISIBLE", 0x21, 0x84000000, 0xFC0FFFFF⟩,
   ⟨"RASTER_SPRITE", 0x22, 0x88000000, 0xFC0FFFFF⟩,
   ⟨"COMPOSE_PIXEL", 0x23, 0x8C000000, 0xFC0FFFFF⟩,
   ⟨"SGB_INIT", 0x28, 0xA0000000, 0xFFFFFFFF⟩,
   ⟨"SGB_END", 0x29, 0xA4000000, 0xFFFFFFFF⟩,
   ⟨"SGB_STATUS", 0x2A, 0xA8000000, 0xFFFFFFFF⟩,
   ⟨"SGB_PAL_RD", 0x2B, 0xAC000000, 0xFC07FFFF⟩,
   ⟨"SGB_SNESPAL_RD", 0x2C, 0xB0000000, 0xFC007FFF⟩,
   ⟨"SGB_ATF_RD", 0x2D, 0xB4000000, 0xFC0003FF⟩,
   ⟨"SGB_CURATF_RD", 0x2E, 0xB8000000, 0xFC00FFFF⟩,
   ⟨"SGB_PKT_RD", 0x2F, 0xBC000000, 0xFC07FFFF⟩]

/-- The row of the opcode map with a request's opcode. -/
def rowOf (i : Instr) : Option OpRow := opcodeMap.find? (fun r => r.op == opcodeOf i)

/-- What the decoder reads from the request whose bits are `w`, numbered as spec/opcode_table.json numbers
them. A request is one 32-bit word, so bits above `nbits` are 0 and a longer row is no request (log 10). -/
def decodeTableWord (nbits w : Nat) : Option Instr :=
  if nbits ≤ 32 then
    match decode (BitVec.ofNat 32 (w % 2 ^ nbits)) with
    | .ok i => some i
    | .error _ => none
  else none

end Sys2Proof
end

