-- ==== Sys2Proof/Config.lean ====
section
/-! DEFINITION. What is fixed for one instance of the block (00_scope.md R2, R10) and the free values the
spec draws during a run (44_sgb_packet_engine.md R345, R346, R352, R359). -/

namespace Sys2Proof

/-- The hardware variant (00_scope.md R2). -/
inductive Mode where
  | dmg
  | gbcCompat
  | cgbEnabled
  deriving DecidableEq, Repr

/-- Destination format of the sprite rasterizer (00_scope.md R10, `SINK_FORMAT`). -/
inductive SinkFormat where
  | rgb
  | rgba
  deriving DecidableEq, Repr

/-- A colour of three 8-bit channels (00_scope.md R12). -/
structure Rgb8 where
  r : Byte
  g : Byte
  b : Byte
  deriving DecidableEq, Repr

/-- The parameters of 00_scope.md R10 that stay fixed while an instance runs. No request writes one
(10_state.md R32). The `INIT_*` contents are the arguments of `State.construct`. -/
structure Config where
  /-- `MODE`. -/
  mode : Mode
  /-- `N_ERAM_BANKS`, 0..16. -/
  nEramBanks : Nat
  /-- `DMG_BANK1_READ`: what a bank-1 VRAM read returns in DMG mode. -/
  dmgBank1Read : Byte
  /-- `COMPAT_SPR(n, shade)`: row `n`, column `shade`. -/
  compatSpr : Vector (Vector Rgb8 4) 2
  /-- `COMPAT_BG(shade)`. -/
  compatBg : Vector Rgb8 4
  /-- `SINK_FORMAT`. -/
  sinkFormat : SinkFormat
  /-- `JOYPAD(player, sel)`: row `player`, column `sel`, active low. -/
  joypad : Vector (Vector (BitVec 4) 4) 4
  /-- `SGB_LEN0_PACKETS`, 1..7. -/
  sgbLen0Packets : Nat
  deriving DecidableEq, Repr

/-- The configuration `State.reset` takes: R10's defaults where it gives one, and the premise of
95_test_vectors.md's common start state elsewhere. DESIGN CHOICE, logs 3, 4 and 5. -/
def Config.reset : Config where
  mode := .dmg
  nEramBanks := 4
  dmgBank1Read := 0xFF
  compatSpr := Vector.replicate 2 (Vector.replicate 4 ⟨0, 0, 0⟩)
  compatBg := Vector.replicate 4 ⟨0, 0, 0⟩
  sinkFormat := .rgb
  joypad := Vector.replicate 4 (Vector.replicate 4 0xF)
  sgbLen0Packets := 1

/-- Free value: byte `k` of the 4096-byte `TRN_BLOCK` of draw `n` (00_scope.md R10, 92 D29). Log 8. -/
opaque Config.trnBlock : (n : Nat) → (k : Nat) → Byte

/-- Free value: cell (`ty`, `tx`) of the grid `ATTR_EDIT` of draw `n` (00_scope.md R10, 92 D34). Log 8. -/
opaque Config.attrEdit : (n : Nat) → (ty : Nat) → (tx : Nat) → U2

end Sys2Proof
end

