-- ==== Sys2Proof/Machine/State.lean ====
section
/-! DEFINITION. The state of the block (10_state.md), what it answers (30_encoding.md R125, 60_exceptions.md
R400 to R405), and an instance right after construction (70_reset_and_hazards.md R430). Plain data. -/

namespace Sys2Proof.Machine

/-- One storage array (00_scope.md R12): the bytes that differ from what an unlisted index reads as, at
strictly rising indices. -/
abbrev Memory := List Host.Cell

/-- A table of `rows` rows of `cols` cells. -/
abbrev Table (α : Type) (rows cols : Nat) := Vector (Vector α cols) rows

/-- The six storage spaces (20_memory.md R80). -/
inductive Space where
  | vram
  | oam
  | eram
  | io
  | bgPal
  | objPal
  deriving DecidableEq, Repr

/-- Eight colour indices, element 0 leftmost (30_encoding.md R125, `Row`). -/
abbrev TileRow := Vector U2 8

/-- The fault codes of 60_exceptions.md R401, in its order. -/
inductive FaultCode where
  | illegalRequest
  | bankOutOfRange
  | addrOutOfRange
  | tileOutOfRange
  | oamIndexOutOfRange
  | paletteOutOfRange
  | accessDenied
  | sgbAbsent
  | coordOutOfRange
  deriving DecidableEq, Repr

/-- `info` of a fault: a number or a tuple (60_exceptions.md R400). -/
inductive FaultInfo where
  | num (a : Nat)
  | pair (a b : Nat)
  | triple (a b c : Nat)
  deriving DecidableEq, Repr

/-- A fault of the block before it is a response: `Fault(code, info)` (60_exceptions.md R400). -/
structure SpecFault where
  code : FaultCode
  info : FaultInfo
  deriving DecidableEq, Repr

/-- An entry of `fault_log` (60_exceptions.md R405). -/
structure FaultEntry where
  word : Word
  agent : Agent
  code : FaultCode
  info : FaultInfo
  deriving DecidableEq, Repr

/-- What a sprite pixel asks of the sink (30_encoding.md R125). -/
inductive PixelAction where
  | write (c : Rgb8)
  | writeRgba (c : Rgb8) (alpha : Byte)
  | skip
  deriving DecidableEq, Repr

/-- One entry of the `Pixels` response: column, row, action (43_sprite_rasterizer.md R285). -/
structure PixelWrite where
  x : Nat
  y : Nat
  action : PixelAction
  deriving DecidableEq, Repr

/-- The layer COMPOSE_PIXEL selects (43_sprite_rasterizer.md R290). -/
inductive Layer where
  | bg
  | obj
  deriving DecidableEq, Repr

/-- The record SGB_STATUS returns, in its order (44_sgb_packet_engine.md R380). -/
structure SgbStatus where
  sending : Bool
  waitReset : Bool
  currbit : Nat
  currbyte : Nat
  currpacket : Nat
  numpackets : Nat
  prevSel : U2
  freezeScreen : U2
  multiplayer : U2
  readJoypad : Bool
  currentJoypad : U2
  attraction : Bool
  speedTest : Bool
  deriving DecidableEq, Repr

/-- The responses of 30_encoding.md R125. -/
inductive Response where
  | none
  | byte (v : Byte)
  | word (v : Half)
  | rgb (c : Rgb8)
  | row (p : TileRow)
  | grid (h : Nat) (rows : List TileRow)
  | bool (b : Bool)
  | pixels (l : List PixelWrite)
  | layer (l : Layer)
  | u2 (v : U2)
  | status (r : SgbStatus)
  | fault (code : FaultCode) (info : FaultInfo)
  deriving DecidableEq, Repr

/-- The event `SgbCommand(cmd, npk, bytes)` (44_sgb_packet_engine.md R341). -/
structure SgbCommand where
  cmd : BitVec 5
  npk : Nat
  bytes : List Byte
  deriving DecidableEq, Repr

/-- A response with the events it carries (30_encoding.md R125). -/
structure Reply where
  resp : Response
  events : List SgbCommand
  deriving DecidableEq, Repr

/-- The record `_SGB_INFO_`: 10_state.md R46 to R54. -/
structure SgbState where
  /-- R46: transfer active. -/
  sending : Bool
  /-- R46: a packet has completed, the next packet's reset pulse is awaited. -/
  waitReset : Bool
  /-- R46: bit cursor, 0..7 between requests. -/
  currbit : Nat
  /-- R46: byte cursor, 0..15 between requests. -/
  currbyte : Nat
  /-- R46: packet cursor, 0..7. -/
  currpacket : Nat
  /-- R46: packets of the current command, 0..7. -/
  numpackets : Nat
  /-- R46: P1 line value of the previous P1 write. -/
  prevSel : U2
  /-- R47: the packet buffer. -/
  data : Table Byte 7 16
  /-- R48: 8 palettes of 16 colour words. -/
  palette : Table Half 8 16
  /-- R49: 512 palettes of 4 colour words. -/
  snesPalette : Table Half 512 4
  /-- R50: 45 attribute files. -/
  atfList : Vector (Table U2 18 20) 45
  /-- R51: the attribute grid applied to the screen. -/
  curAtf : Table U2 18 20
  /-- R52: the last screen-mask mode. -/
  freezeScreen : U2
  /-- R53: the last MLT_REQ mode code. -/
  multiplayer : U2
  /-- R53: a select write has occurred since the last identity advance. -/
  readJoypad : Bool
  /-- R53: index of the joypad currently reported. -/
  currentJoypad : U2
  /-- R54. -/
  attraction : Bool
  /-- R54. -/
  speedTest : Bool
  deriving DecidableEq, Repr

/-- The SGB engine in the middle of one P1 write: its record, how many free values have been drawn, and
the events emitted so far. -/
structure SgbRun where
  sgb : SgbState
  draws : Nat
  events : List SgbCommand
  deriving DecidableEq, Repr

/-- The state of one instance. -/
structure State where
  /-- The parameters of 00_scope.md R10; no request writes them (10_state.md R32). Log 3. -/
  cfg : Config
  /-- 10_state.md R33. -/
  vram : Memory
  /-- 10_state.md R35. -/
  oam : Memory
  /-- 10_state.md R37. -/
  eram : Memory
  /-- 10_state.md R38 to R41. -/
  io : Memory
  /-- 10_state.md R42. -/
  bgPal : Memory
  /-- 10_state.md R42. -/
  objPal : Memory
  /-- 10_state.md R45. -/
  sgbPresent : Bool
  /-- 10_state.md R46 to R54. -/
  sgb : SgbState
  /-- 10_state.md R31: how many requests have been performed. -/
  index : Nat
  /-- 10_state.md R57. -/
  faultLog : List FaultEntry
  /-- The model's own: how many free values have been drawn (log 8). -/
  draws : Nat
  /-- The model's own: the requests presented and not yet performed, in arrival order (log 1). -/
  pending : List Request
  /-- The model's own: the request being performed (log 2). -/
  port : Request
  /-- The model's own: the answer to the last request (log 2). -/
  reply : Reply
  deriving DecidableEq, Repr

/-- Reasons the machine stops with a fault. NONE: every fault of the spec is a response after which the
block takes the next request at once (60_exceptions.md R404, R409), so it is a next state (log 9). Safe:
nobody raises one. -/
inductive Fault where
  deriving DecidableEq, Repr

/-- Reasons the machine has no meaning for an instruction. -/
inductive Refusal where
  /-- An instruction without a meaning. Raised by no arm of exec (log 9). Safe. -/
  | notModelled (mnemonic : String)
  deriving DecidableEq, Repr

/-- The contents of the storage arrays at construction: `INIT_VRAM`, `INIT_OAM`, `INIT_ERAM`, `INIT_IO`,
`INIT_BGPAL`, `INIT_OBJPAL` (00_scope.md R10). -/
structure InitContents where
  vram : Memory
  oam : Memory
  eram : Memory
  io : Memory
  bgPal : Memory
  objPal : Memory
  deriving DecidableEq, Repr

/-- The SGB fields of an instance whose engine is absent. They hold no value a request can observe
(44_sgb_packet_engine.md R313); the zeros are a DESIGN CHOICE (log 7). -/
def SgbState.absent : SgbState where
  sending := false
  waitReset := false
  currbit := 0
  currbyte := 0
  currpacket := 0
  numpackets := 0
  prevSel := 0
  data := Vector.replicate 7 (Vector.replicate 16 0)
  palette := Vector.replicate 8 (Vector.replicate 16 0)
  snesPalette := Vector.replicate 512 (Vector.replicate 4 0)
  atfList := Vector.replicate 45 (Vector.replicate 18 (Vector.replicate 20 0))
  curAtf := Vector.replicate 18 (Vector.replicate 20 0)
  freezeScreen := 0
  multiplayer := 0
  readJoypad := false
  currentJoypad := 0
  attraction := false
  speedTest := false

/-- Construction of an instance (70_reset_and_hazards.md R430): the configuration, the `INIT_*` contents,
no SGB engine, an empty fault log. The model's own fields: no request presented, none answered. -/
def State.construct (cfg : Config) (init : InitContents) : State where
  cfg := cfg
  vram := init.vram
  oam := init.oam
  eram := init.eram
  io := init.io
  bgPal := init.bgPal
  objPal := init.objPal
  sgbPresent := false
  sgb := SgbState.absent
  index := 0
  faultLog := []
  draws := 0
  pending := []
  port := ⟨0, .owner⟩
  reply := ⟨.none, []⟩

/-- The machine right after reset: construction with `Config.reset` and with no byte listed, so every byte
reads 0x00 (DESIGN CHOICE, logs 3 to 7). -/
def State.reset : State := State.construct Config.reset ⟨[], [], [], [], [], []⟩

end Sys2Proof.Machine
end

