-- ==== Sys2Proof/Machine/Memory.lean ====
section
/-! DEFINITION. Storage arrays and tables: the one-byte read and write every rule uses (00_scope.md R12,
20_memory.md R81), the canonical form of a stored array, and cells of the SGB tables. -/

namespace Sys2Proof.Machine

/-- What an index that is not listed reads as. No source gives a power-on value (70_reset_and_hazards.md
R430); DESIGN CHOICE, unsafe, log 6. -/
def unlistedByte : Byte := 0x00

/-- `MemRead(space, index, 1)` on one array. -/
def memGet : Memory → Nat → Byte
  | [], _ => unlistedByte
  | (k, v) :: rest, a => if k = a then v else memGet rest a

/-- The array with index `a` unlisted. -/
def memDrop (m : Memory) (a : Nat) : Memory := m.filter (fun c => c.1 != a)

/-- The array with `(a, v)` listed before the first larger index. -/
def memInsert : Memory → Nat → Byte → Memory
  | [], a, v => [(a, v)]
  | c :: rest, a, v => if a < c.1 then (a, v) :: c :: rest else c :: memInsert rest a v

/-- `MemWrite(space, index, 1, v)` on one array; keeps the canonical form. -/
def memPut (m : Memory) (a : Nat) (v : Byte) : Memory :=
  if v = unlistedByte then memDrop m a else memInsert (memDrop m a) a v

/-- The canonical form: strictly rising indices, none listed with the value it would read as unlisted. -/
def Memory.wf : Memory → Bool
  | [] => true
  | [c] => c.2 != unlistedByte
  | c :: d :: rest => decide (c.1 < d.1) && c.2 != unlistedByte && Memory.wf (d :: rest)

/-- Every listed index is below `n`. -/
def memBelow (m : Memory) (n : Nat) : Bool := m.all (fun c => decide (c.1 < n))

/-- Cell (`i`, `j`) of a table. The rules name only cells that exist (log 12). -/
def tabGet {α : Type} [Inhabited α] {r c : Nat} (t : Table α r c) (i j : Nat) : α :=
  match t[i]? with
  | some row => (row[j]?).getD default
  | none => default

/-- The table with cell (`i`, `j`) replaced. The rules name only cells that exist (log 12). -/
def tabSet {α : Type} {r c : Nat} (t : Table α r c) (i j : Nat) (v : α) : Table α r c :=
  if h : i < r then t.set i (t[i].setIfInBounds j v) else t

/-- The table whose cell (`i`, `j`) is `f i j`. -/
def tabOf {α : Type} (r c : Nat) (f : Nat → Nat → α) : Table α r c :=
  Vector.ofFn fun i => Vector.ofFn fun j => f i.val j.val

end Sys2Proof.Machine
end

