-- ==== Sys2Proof/Machine/Ops.lean ====
section
/-! DEFINITION. The shared operations: reading and writing a storage space, answering a request, raising a
fault (60_exceptions.md R400 to R405), the agent check (R411), and taking the next request from the port. -/

namespace Sys2Proof.Machine

/-- What a step answers. -/
abbrev Result := Host.Outcome State Fault Refusal

/-- The array behind a space. -/
def State.space (s : State) : Space → Memory
  | .vram => s.vram
  | .oam => s.oam
  | .eram => s.eram
  | .io => s.io
  | .bgPal => s.bgPal
  | .objPal => s.objPal

/-- The state with the array of a space replaced. -/
def State.setSpace (s : State) (sp : Space) (m : Memory) : State :=
  match sp with
  | .vram => { s with vram := m }
  | .oam => { s with oam := m }
  | .eram => { s with eram := m }
  | .io => { s with io := m }
  | .bgPal => { s with bgPal := m }
  | .objPal => { s with objPal := m }

/-- `MemRead(space, i, 1)` (00_scope.md R12). -/
def State.memRead (s : State) (sp : Space) (i : Nat) : Byte := memGet (s.space sp) i

/-- `MemWrite(space, i, 1, v)` (00_scope.md R12). -/
def State.memWrite (s : State) (sp : Space) (i : Nat) (v : Byte) : State :=
  s.setSpace sp (memPut (s.space sp) i v)

/-- The SGB engine's record and the draw count replaced, as one P1 write leaves them. -/
def State.withSgb (s : State) (g : SgbState) (draws : Nat) : State := { s with sgb := g, draws := draws }

/-- `respond(v)` with the events emitted (00_scope.md R12). -/
def State.respondWith (s : State) (r : Response) (events : List SgbCommand) : State :=
  { s with reply := ⟨r, events⟩ }

/-- `respond(v)` with no event. -/
def State.respond (s : State) (r : Response) : State := s.respondWith r []

/-- The entry a fault of the request at the port adds to `fault_log` (60_exceptions.md R405). -/
def faultEntry (p : Request) (f : SpecFault) : FaultEntry := ⟨p.word, p.agent, f.code, f.info⟩

/-- TAKING A FAULT, `raise Fault(code, info)` (60_exceptions.md R400, R404, R405): the response is the fault,
`fault_log` gains the request at the port, nothing else changes, no event is emitted. There is no return
from a fault: the block takes the next request at once (R409). -/
def State.raise (s : State) (f : SpecFault) : State :=
  { s with faultLog := s.faultLog ++ [faultEntry s.port f], reply := ⟨.fault f.code f.info, []⟩ }

/-- A request that reads state and writes none: its response, or its fault. -/
def answer (s : State) (r : Except SpecFault Response) : Result :=
  match r with
  | .ok v => .next (s.respond v)
  | .error f => .next (s.raise f)

/-- A request that writes state and responds with no value: the state it leaves, or its fault. Every check
stands before any write (60_exceptions.md R404). -/
def commit (s : State) (r : Except SpecFault State) : Result :=
  match r with
  | .ok t => .next (t.respond .none)
  | .error f => .next (s.raise f)

/-- The agent check of 30_encoding.md R124 step 3 before an Owner-only request: `Fault(AccessDenied, op)`
for an Observer (60_exceptions.md R411). -/
def asOwner (op : BitVec 6) (s : State) (k : Result) : Result :=
  match s.port.agent with
  | .owner => k
  | .observer => .next (s.raise ⟨.accessDenied, .num op.toNat⟩)

/-- A fault unless a check passes. -/
def require (ok : Bool) (f : SpecFault) : Except SpecFault Unit := if ok then .ok () else .error f

/-- The next request in arrival order, with the state as it is when the block performs it: the request at
the port, the request index advanced by one (10_state.md R31). -/
def State.fetch (s : State) : Option (Request × State) :=
  match s.pending with
  | [] => none
  | r :: rest => some (r, { s with pending := rest, port := r, index := s.index + 1 })

/-- The request word whose bits are `w` on `nbits` bits. -/
def requestWord (nbits w : Nat) : Word := BitVec.ofNat 32 (w % 2 ^ nbits)

/-- The number of a fault code (60_exceptions.md R401). -/
def faultNumber : FaultCode → BitVec 8
  | .illegalRequest => 0x01
  | .bankOutOfRange => 0x02
  | .addrOutOfRange => 0x03
  | .tileOutOfRange => 0x04
  | .oamIndexOutOfRange => 0x05
  | .paletteOutOfRange => 0x06
  | .accessDenied => 0x07
  | .sgbAbsent => 0x08
  | .coordOutOfRange => 0x09

/-- `Fault(IllegalRequest, w)` for a word that is no request, whichever check it fails
(30_encoding.md R111). -/
def illegalRequest (w : Word) : SpecFault := ⟨.illegalRequest, .num w.toNat⟩

/-- `Fault(SgbAbsent, 0)` unless the SGB engine is present (44_sgb_packet_engine.md R313). -/
def needSgb (s : State) : Except SpecFault Unit := require s.sgbPresent ⟨.sgbAbsent, .num 0⟩

end Sys2Proof.Machine
end

