-- ==== Sys2Proof/Machine/Flags.lean ====
section
/-! DEFINITION. The block has no arithmetic flags (10_state.md R56). Here are the values its rules derive from
the named I/O registers (10_state.md R39 to R41) and from the SGB fields (R52, R53). -/

namespace Sys2Proof.Machine

/-- P1 is `IO[0x00]` (10_state.md R39). -/
def ioP1 : Nat := 0x00
/-- LCDC is `IO[0x40]` (10_state.md R40). -/
def ioLcdc : Nat := 0x40
/-- BGP is `IO[0x47]` (10_state.md R41). -/
def ioBgp : Nat := 0x47
/-- OBP0 is `IO[0x48]` (10_state.md R41). -/
def ioObp0 : Nat := 0x48
/-- OBP1 is `IO[0x49]` (10_state.md R41). -/
def ioObp1 : Nat := 0x49

/-- The line value of a P1 byte: bits 5:4, P15 above P14 (10_state.md R39). -/
def lineValue (p1 : Byte) : U2 := p1.extractLsb' 4 2

/-- `sel`: the line value of the stored P1 (10_state.md R39). -/
def State.lines (s : State) : U2 := lineValue (s.memRead .io ioP1)

/-- LCDC bit 2 `obj_size` (10_state.md R40). -/
def State.objSize (s : State) : Bool := (s.memRead .io ioLcdc).getLsbD 2

/-- LCDC bit 0 `bg_master` (10_state.md R40). -/
def State.bgMaster (s : State) : Bool := (s.memRead .io ioLcdc).getLsbD 0

/-- Sprite height `H` (43_sprite_rasterizer.md R270). -/
def State.spriteHeight (s : State) : Nat := if s.objSize then 16 else 8

/-- `PLAYERS(multiplayer)` (10_state.md R53). -/
def players (m : U2) : Nat :=
  match m.toNat with
  | 1 => 2
  | 3 => 4
  | _ => 1

/-- "multiplayer mode is active" (10_state.md R53). -/
def multiplayerActive (g : SgbState) : Bool := decide (1 < players g.multiplayer)

/-- The freeze-screen flag (10_state.md R52). -/
def freezeFlag (g : SgbState) : Bool := g.freezeScreen != 0

/-- The scalar SGB state (44_sgb_packet_engine.md R380). -/
def statusOf (g : SgbState) : SgbStatus where
  sending := g.sending
  waitReset := g.waitReset
  currbit := g.currbit
  currbyte := g.currbyte
  currpacket := g.currpacket
  numpackets := g.numpackets
  prevSel := g.prevSel
  freezeScreen := g.freezeScreen
  multiplayer := g.multiplayer
  readJoypad := g.readJoypad
  currentJoypad := g.currentJoypad
  attraction := g.attraction
  speedTest := g.speedTest

/-- `JOYPAD(player, sel)` (00_scope.md R10). -/
def joypadLines (c : Config) (player sel : Nat) : BitVec 4 := tabGet c.joypad player sel

/-- Bits 3:0 of a P1 read (44_sgb_packet_engine.md R370). -/
def State.p1Low (s : State) : BitVec 4 :=
  if s.sgbPresent && multiplayerActive s.sgb then
    if s.lines = 0b11 then 0xF - s.sgb.currentJoypad.setWidth 4
    else joypadLines s.cfg s.sgb.currentJoypad.toNat s.lines.toNat
  else joypadLines s.cfg 0 s.lines.toNat

/-- `P1Read()` (44_sgb_packet_engine.md R370); changes no state. -/
def State.p1Read (s : State) : Byte :=
  0xC0 ||| (s.lines.setWidth 8 <<< 4) ||| s.p1Low.setWidth 8

end Sys2Proof.Machine
end

