-- ==== Sys2Proof/Machine/Operands.lean ====
section
/-! DEFINITION. Operand forms: the bank muxes (40_vram_bank_mux.md R151, R154, R160, R165), the OAM entry view
(R157), attribute fields (10_state.md R36, R44), the SGB packet fields (44_sgb_packet_engine.md R342), and the
operand checks of the request rules. -/

namespace Sys2Proof.Machine

/-- Where a (bank, offset) pair of VRAM leads. -/
inductive VramPlace where
  | absent
  | byteAt (i : Nat)
  deriving DecidableEq, Repr

/-- Bytes in a bank of VRAM or ERAM (00_scope.md R8). -/
def bankSize : Nat := 0x2000

/-- Bank 1 of VRAM exists only on colour hardware (10_state.md R34). -/
def bank1Absent (c : Config) (bank : Nat) : Bool := decide (bank = 1) && decide (c.mode = .dmg)

/-- `VramIndex(bank, addr)` (40_vram_bank_mux.md R151). -/
def vramIndex (c : Config) (bank addr : Nat) : Except SpecFault VramPlace :=
  if 1 < bank then .error ⟨.bankOutOfRange, .num bank⟩
  else if 0x1FFF < addr then .error ⟨.addrOutOfRange, .num addr⟩
  else if bank1Absent c bank then .ok .absent
  else .ok (.byteAt (bank * bankSize + addr))

/-- The byte a VRAM place reads as: `DMG_BANK1_READ` where the bank is absent (40_vram_bank_mux.md R152). -/
def State.vramAt (s : State) : VramPlace → Byte
  | .absent => s.cfg.dmgBank1Read
  | .byteAt i => s.memRead .vram i

/-- `VramFetch(bank, off)`, the decoders' own fetch (40_vram_bank_mux.md R154). -/
def State.vramFetch (s : State) (bank off : Nat) : Byte :=
  if bank1Absent s.cfg bank then s.cfg.dmgBank1Read else s.memRead .vram (bank * bankSize + off)

/-- `EramIndex(bank, addr)` (40_vram_bank_mux.md R160). -/
def eramIndex (c : Config) (bank addr : Nat) : Except SpecFault Nat :=
  if c.nEramBanks ≤ bank then .error ⟨.bankOutOfRange, .num bank⟩
  else if 0x1FFF < addr then .error ⟨.addrOutOfRange, .num addr⟩
  else .ok (bank * bankSize + addr)

/-- The bank of `FlatSplit(faddr)`: `(faddr & 0x1E000) >> 13` (40_vram_bank_mux.md R165). -/
def flatBank (faddr : BitVec 17) : Nat := ((faddr &&& 0x1E000) >>> 13).toNat

/-- The offset of `FlatSplit(faddr)`: the low 13 bits (40_vram_bank_mux.md R165). -/
def flatOffset (faddr : BitVec 17) : Nat := (faddr &&& 0x1FFF).toNat

/-- `EramIndex` of a flat address (40_vram_bank_mux.md R166). -/
def flatIndex (c : Config) (faddr : BitVec 17) : Except SpecFault Nat :=
  eramIndex c (flatBank faddr) (flatOffset faddr)

/-- The two kinds of camera address (40_vram_bank_mux.md R170). -/
inductive CameraKind where
  | photo
  | thumb
  deriving DecidableEq, Repr

/-- `CameraAddr(kind, k)` for k in -1..29 (40_vram_bank_mux.md R170): a helper, not a request. -/
def cameraAddr (kind : CameraKind) (k : Int) : Nat :=
  if k = -1 then 0x0100
  else (match kind with
    | .photo => 0x2000
    | .thumb => 0x2E00) + k.toNat * 0x1000

/-- Bytes of OAM (00_scope.md R9). -/
def oamSize : Nat := 160

/-- Entries of OAM (00_scope.md R8). -/
def oamEntries : Nat := 40

/-- Bytes of one CGB palette RAM (00_scope.md R8). -/
def palRamSize : Nat := 64

/-- The index check of OAM_RD and OAM_WR (40_vram_bank_mux.md R155, R156). -/
def oamByteIndex (index : Byte) : Except SpecFault Nat :=
  if oamSize ≤ index.toNat then .error ⟨.addrOutOfRange, .num index.toNat⟩ else .ok index.toNat

/-- The index check of PAL_RD and PAL_WR (40_vram_bank_mux.md R178, R179). -/
def palByteIndex (index : Byte) : Except SpecFault Nat :=
  if palRamSize ≤ index.toNat then .error ⟨.addrOutOfRange, .num index.toNat⟩ else .ok index.toNat

/-- The space `sel` of format X names (30_encoding.md R114). -/
def palSpace : PalTable → Space
  | .bg => .bgPal
  | .obj => .objPal

/-- `OamEntry(i)` (40_vram_bank_mux.md R157). -/
structure OamEntryView where
  y : Byte
  x : Byte
  tile : Byte
  info : Byte
  deriving DecidableEq, Repr

/-- `OamEntry(i)`: bytes Y, X, Tile, Info from `4i` (10_state.md R35, 40_vram_bank_mux.md R157). -/
def State.oamEntry (s : State) (i : Nat) : OamEntryView where
  y := s.memRead .oam (4 * i)
  x := s.memRead .oam (4 * i + 1)
  tile := s.memRead .oam (4 * i + 2)
  info := s.memRead .oam (4 * i + 3)

/-- Info bit 7 (10_state.md R36). -/
def infoPri (info : Byte) : Bool := info.getLsbD 7
/-- Info bit 6 (10_state.md R36). -/
def infoYflip (info : Byte) : Bool := info.getLsbD 6
/-- Info bit 5 (10_state.md R36). -/
def infoXflip (info : Byte) : Bool := info.getLsbD 5
/-- Info bit 4: 0 selects OBP0, 1 selects OBP1 (10_state.md R36). -/
def infoDmgPal (info : Byte) : Nat := (info.extractLsb' 4 1).toNat
/-- Info bit 3 (10_state.md R36). -/
def infoBank (info : Byte) : Nat := (info.extractLsb' 3 1).toNat
/-- Info bits 2:0 (10_state.md R36). -/
def infoCgbPal (info : Byte) : Nat := (info.extractLsb' 0 3).toNat

/-- Bit 7 of a background attribute byte (10_state.md R44). -/
def attrPri (attr : Byte) : Bool := attr.getLsbD 7
/-- Bit 6 (10_state.md R44). -/
def attrYflip (attr : Byte) : Bool := attr.getLsbD 6
/-- Bit 5 (10_state.md R44). -/
def attrXflip (attr : Byte) : Bool := attr.getLsbD 5
/-- Bit 3 (10_state.md R44). -/
def attrBank (attr : Byte) : Nat := (attr.extractLsb' 3 1).toNat
/-- Bits 2:0 (10_state.md R44). -/
def attrPal (attr : Byte) : Nat := (attr.extractLsb' 0 3).toNat

/-- The entry check of the sprite requests (43_sprite_rasterizer.md R274, R283, R285). -/
def objIndex (obj : BitVec 6) : Except SpecFault Nat :=
  if oamEntries ≤ obj.toNat then .error ⟨.oamIndexOutOfRange, .num obj.toNat⟩ else .ok obj.toNat

/-- The tile check of DECODE_TILE_ROW (42_tile_decoder.md R242). -/
def tileIndex (tile : BitVec 9) : Except SpecFault Nat :=
  if 384 ≤ tile.toNat then .error ⟨.tileOutOfRange, .num tile.toNat⟩ else .ok tile.toNat

/-- A screen tile coordinate outside the 20 x 18 grid (41_palette_lut.md R220, 44 R383, R384). -/
def offTileGrid (tx ty : BitVec 5) : Bool := decide (20 ≤ tx.toNat) || decide (18 ≤ ty.toNat)

/-- Byte `i` of packet 0, `d[i]` (44_sgb_packet_engine.md R342). -/
def packet0 (g : SgbState) (i : Nat) : Byte := tabGet g.data 0 i

/-- `LE16(i) = {d[i+1], d[i]}` (44_sgb_packet_engine.md R342). -/
def le16 (g : SgbState) (i : Nat) : Half := packet0 g (i + 1) ++ packet0 g i

/-- The little-endian word at byte `k` of `TRN_BLOCK` of draw `n` (44_sgb_packet_engine.md R345). -/
def trnWord (n k : Nat) : Half := Config.trnBlock n (k + 1) ++ Config.trnBlock n k

end Sys2Proof.Machine
end

