-- ==== Sys2Proof/Machine/SgbEngine.lean ====
section
/-! DEFINITION. sgb_packet_engine (44_sgb_packet_engine.md): the P1 line step R320 to R338, decode and apply
R341 to R360, the multiplayer step R365, and P1Write (40_vram_bank_mux.md R175). -/

namespace Sys2Proof.Machine

/-- `GRAY15` (10_state.md R48). -/
def gray15 (c : Nat) : Half :=
  match c with
  | 0 => 0x7FFF
  | 1 => 0x56B5
  | 2 => 0x294A
  | _ => 0x0000

/-- Every SGB field after SGB_INIT (44_sgb_packet_engine.md R311). -/
def sgbAfterInit : SgbState where
  sending := false
  waitReset := false
  currbit := 0
  currbyte := 0
  currpacket := 0
  numpackets := 0
  prevSel := 0b11
  data := tabOf 7 16 fun _ _ => 0
  palette := tabOf 8 16 fun p c => if p < 4 ∧ c < 4 then gray15 c else 0
  snesPalette := tabOf 512 4 fun _ _ => 0
  atfList := Vector.ofFn fun _ => tabOf 18 20 fun _ _ => 0
  curAtf := tabOf 18 20 fun _ _ => 0
  freezeScreen := 0
  multiplayer := 0
  readJoypad := false
  currentJoypad := 0
  attraction := false
  speedTest := false

/-- The commands of 44_sgb_packet_engine.md R342. -/
inductive SgbCmd where
  | pal01 | pal23 | pal03 | pal12
  | attrBlk | attrLin | attrDiv | attrChr
  | sound | souTrn | palSet | palTrn | atrcEn | testEn | iconEn
  | dataSnd | dataTrn | mltReq | jump | chrTrn | pctTrn | attrTrn | attrSet | maskEn | objTrn
  | noCommand
  deriving DecidableEq, Repr

/-- The command a code names (44_sgb_packet_engine.md R342). -/
def sgbCmdOf (cmd : BitVec 5) : SgbCmd :=
  match cmd.toNat with
  | 0x00 => .pal01
  | 0x01 => .pal23
  | 0x02 => .pal03
  | 0x03 => .pal12
  | 0x04 => .attrBlk
  | 0x05 => .attrLin
  | 0x06 => .attrDiv
  | 0x07 => .attrChr
  | 0x08 => .sound
  | 0x09 => .souTrn
  | 0x0A => .palSet
  | 0x0B => .palTrn
  | 0x0C => .atrcEn
  | 0x0D => .testEn
  | 0x0E => .iconEn
  | 0x0F => .dataSnd
  | 0x10 => .dataTrn
  | 0x11 => .mltReq
  | 0x12 => .jump
  | 0x13 => .chrTrn
  | 0x14 => .pctTrn
  | 0x15 => .attrTrn
  | 0x16 => .attrSet
  | 0x17 => .maskEn
  | 0x18 => .objTrn
  | _ => .noCommand

/-- PAL01, PAL23, PAL03, PAL12 with palettes `a` and `b` (44_sgb_packet_engine.md R343). -/
def cmdPalette (a b : Nat) (g : SgbState) : SgbState :=
  { g with palette := tabOf 8 16 fun k c =>
      if k < 4 ∧ c = 0 then le16 g 1
      else if k = a ∧ 1 ≤ c ∧ c ≤ 3 then le16 g (1 + 2 * c)
      else if k = b ∧ 1 ≤ c ∧ c ≤ 3 then le16 g (7 + 2 * c)
      else tabGet g.palette k c }

/-- The applied grid after attribute file `n` is asked for; a number of 45 or more changes nothing
(44_sgb_packet_engine.md R344, R347). -/
def appliedAtf (g : SgbState) (n : Nat) : Table U2 18 20 :=
  match g.atfList[n]? with
  | some grid => grid
  | none => g.curAtf

/-- Palette number `i` of PAL_SET (44_sgb_packet_engine.md R344). -/
def palSetNumber (g : SgbState) (i : Nat) : Nat := (le16 g (1 + 2 * i) &&& 0x1FF).toNat

/-- PAL_SET (44_sgb_packet_engine.md R344). -/
def cmdPalSet (g : SgbState) : SgbState :=
  let flags := packet0 g 9
  { g with
    palette := tabOf 8 16 fun k c =>
      if k < 4 ∧ c = 0 then tabGet g.snesPalette (palSetNumber g 0) 0
      else if k < 4 ∧ c < 4 then tabGet g.snesPalette (palSetNumber g k) c
      else tabGet g.palette k c
    curAtf := if flags.getLsbD 7 then appliedAtf g (flags.extractLsb' 0 6).toNat else g.curAtf
    freezeScreen := if flags.getLsbD 6 then 0 else g.freezeScreen }

/-- PAL_TRN with the block of draw `n` (44_sgb_packet_engine.md R345). -/
def cmdPalTrn (n : Nat) (g : SgbState) : SgbState :=
  { g with snesPalette := tabOf 512 4 fun k c => trnWord n (8 * k + 2 * c) }

/-- Cell (`ty`, `tx`) of file `k` in the block of draw `n` (44_sgb_packet_engine.md R346). -/
def trnCell (n k ty tx : Nat) : U2 :=
  (Config.trnBlock n (90 * k + 5 * ty + tx / 4)).extractLsb' (6 - 2 * (tx % 4)) 2

/-- ATTR_TRN with the block of draw `n` (44_sgb_packet_engine.md R346). -/
def cmdAttrTrn (n : Nat) (g : SgbState) : SgbState :=
  { g with atfList := Vector.ofFn fun k => tabOf 18 20 fun ty tx => trnCell n k.val ty tx }

/-- ATTR_SET (44_sgb_packet_engine.md R347). -/
def cmdAttrSet (g : SgbState) : SgbState :=
  let d1 := packet0 g 1
  { g with
    curAtf := appliedAtf g (d1.extractLsb' 0 6).toNat
    freezeScreen := if d1.getLsbD 6 then 0 else g.freezeScreen }

/-- MASK_EN (44_sgb_packet_engine.md R348). -/
def cmdMaskEn (g : SgbState) : SgbState := { g with freezeScreen := (packet0 g 1).extractLsb' 0 2 }

/-- MLT_REQ (44_sgb_packet_engine.md R349). -/
def cmdMltReq (g : SgbState) : SgbState :=
  { g with multiplayer := (packet0 g 1).extractLsb' 0 2, currentJoypad := 0, readJoypad := false }

/-- ATRC_EN: bit 0 of byte 1 clear enables (44_sgb_packet_engine.md R350). -/
def cmdAtrcEn (g : SgbState) : SgbState := { g with attraction := !(packet0 g 1).getLsbD 0 }

/-- TEST_EN: bit 0 of byte 1 set enables (44_sgb_packet_engine.md R351). -/
def cmdTestEn (g : SgbState) : SgbState := { g with speedTest := (packet0 g 1).getLsbD 0 }

/-- PCT_TRN with the block of draw `n`: its palette part (44_sgb_packet_engine.md R352). -/
def cmdPctTrn (n : Nat) (g : SgbState) : SgbState :=
  { g with palette := tabOf 8 16 fun p c =>
      if 4 ≤ p then trnWord n (0x800 + 32 * (p - 4) + 2 * c) else tabGet g.palette p c }

/-- ATTR_BLK, ATTR_LIN, ATTR_DIV, ATTR_CHR: the applied grid becomes the free grid of draw `n`
(44_sgb_packet_engine.md R359). -/
def cmdAttrEdit (n : Nat) (g : SgbState) : SgbState :=
  { g with curAtf := tabOf 18 20 fun ty tx => Config.attrEdit n ty tx }

/-- `Apply(cmd)` (44_sgb_packet_engine.md R342 to R360). -/
def applyCommand (cmd : SgbCmd) (n : Nat) (g : SgbState) : SgbState :=
  match cmd with
  | .pal01 => cmdPalette 0 1 g
  | .pal23 => cmdPalette 2 3 g
  | .pal03 => cmdPalette 0 3 g
  | .pal12 => cmdPalette 1 2 g
  | .attrBlk => cmdAttrEdit n g
  | .attrLin => cmdAttrEdit n g
  | .attrDiv => cmdAttrEdit n g
  | .attrChr => cmdAttrEdit n g
  | .palSet => cmdPalSet g
  | .palTrn => cmdPalTrn n g
  | .atrcEn => cmdAtrcEn g
  | .testEn => cmdTestEn g
  | .mltReq => cmdMltReq g
  | .pctTrn => cmdPctTrn n g
  | .attrTrn => cmdAttrTrn n g
  | .attrSet => cmdAttrSet g
  | .maskEn => cmdMaskEn g
  | .sound => g
  | .souTrn => g
  | .iconEn => g
  | .dataSnd => g
  | .dataTrn => g
  | .jump => g
  | .chrTrn => g
  | .objTrn => g
  | .noCommand => g

/-- The command's effect uses a free value: the draw count advances (log 8). -/
def drawsValue (cmd : SgbCmd) : Bool :=
  match cmd with
  | .palTrn => true
  | .attrTrn => true
  | .pctTrn => true
  | .attrBlk => true
  | .attrLin => true
  | .attrDiv => true
  | .attrChr => true
  | .pal01 => false
  | .pal23 => false
  | .pal03 => false
  | .pal12 => false
  | .palSet => false
  | .atrcEn => false
  | .testEn => false
  | .mltReq => false
  | .attrSet => false
  | .maskEn => false
  | .sound => false
  | .souTrn => false
  | .iconEn => false
  | .dataSnd => false
  | .dataTrn => false
  | .jump => false
  | .chrTrn => false
  | .objTrn => false
  | .noCommand => false

/-- `NumPackets(h)` (44_sgb_packet_engine.md R335). -/
def numPackets (c : Config) (h : Byte) : Nat :=
  if h.extractLsb' 0 3 ≠ 0 then (h.extractLsb' 0 3).toNat else c.sgbLen0Packets

/-- The command code: bits 7:3 of the header byte (44_sgb_packet_engine.md R335, R336). -/
def commandCode (g : SgbState) : BitVec 5 := (packet0 g 0).extractLsb' 3 5

/-- `data[0..numpackets-1]` in order (44_sgb_packet_engine.md R336). -/
def commandBytes (g : SgbState) : List Byte :=
  ((g.data.toList.take g.numpackets).map (fun p => p.toList)).flatten

/-- `SgbCommand(cmd, numpackets, data[0..numpackets-1])` (44_sgb_packet_engine.md R336, R341). -/
def commandEvent (g : SgbState) : SgbCommand := ⟨commandCode g, g.numpackets, commandBytes g⟩

/-- Command completion: emit, apply, back to Idle (44_sgb_packet_engine.md R336). -/
def completeCommand (r : SgbRun) : SgbRun :=
  let cmd := sgbCmdOf (commandCode r.sgb)
  { sgb := { applyCommand cmd r.draws r.sgb with sending := false, waitReset := false }
    draws := if drawsValue cmd then r.draws + 1 else r.draws
    events := r.events ++ [commandEvent r.sgb] }

/-- Packet completion when the byte cursor reaches 16 (44_sgb_packet_engine.md R334). -/
def finishPacket (c : Config) (r : SgbRun) : SgbRun :=
  if r.sgb.currbyte = 16 then
    let g := { r.sgb with
      currbyte := 0
      currpacket := r.sgb.currpacket + 1
      numpackets :=
        if r.sgb.currpacket + 1 = 1 then numPackets c (packet0 r.sgb 0) else r.sgb.numpackets }
    if g.currpacket = g.numpackets then completeCommand { r with sgb := g }
    else { r with sgb := { g with waitReset := true } }
  else r

/-- Byte completion when the bit cursor reaches 8 (44_sgb_packet_engine.md R333). -/
def finishByte (g : SgbState) : SgbState :=
  if g.currbit = 8 then { g with currbit := 0, currbyte := g.currbyte + 1 } else g

/-- One bit shifted into the byte at the cursors, first bit received lowest (44_sgb_packet_engine.md R332). -/
def shiftBit (bit : Bool) (g : SgbState) : SgbState :=
  { g with
    data := tabSet g.data g.currpacket g.currbyte
      (tabGet g.data g.currpacket g.currbyte >>> 1 ||| (BitVec.ofBool bit).setWidth 8 <<< 7)
    currbit := g.currbit + 1 }

/-- A data bit is taken (44_sgb_packet_engine.md R331). -/
def bitTaken (sel : U2) (g : SgbState) : Bool :=
  (sel == 0b01 || sel == 0b10) && g.prevSel == 0b11 && g.sending && !g.waitReset

/-- Reset pulse (44_sgb_packet_engine.md R330). -/
def resetPulse (g : SgbState) : SgbState :=
  if !g.sending then
    { g with sending := true, waitReset := false, currbit := 0, currbyte := 0, currpacket := 0 }
  else if g.waitReset then { g with waitReset := false }
  else if g.currbit = 0 ∧ g.currbyte = 0 then g
  else { g with sending := false, currbit := 0, currbyte := 0, currpacket := 0 }

/-- What the line value does, before `prev_sel` is updated (44_sgb_packet_engine.md R330 to R337). -/
def lineEvent (c : Config) (sel : U2) (r : SgbRun) : SgbRun :=
  if sel = 0b00 then { r with sgb := resetPulse r.sgb }
  else if bitTaken sel r.sgb then
    finishPacket c { r with sgb := finishByte (shiftBit (sel == 0b01) r.sgb) }
  else r

/-- The line step of one P1 write (44_sgb_packet_engine.md R320, R338). -/
def lineStep (c : Config) (sel : U2) (r : SgbRun) : SgbRun :=
  let t := lineEvent c sel r
  { t with sgb := { t.sgb with prevSel := sel } }

/-- The multiplayer step of one P1 write (44_sgb_packet_engine.md R365). -/
def multiplayerStep (sel : U2) (g : SgbState) : SgbState :=
  if multiplayerActive g then
    if sel = 0b11 then
      if g.readJoypad then
        { g with
          currentJoypad := BitVec.ofNat 2 ((g.currentJoypad.toNat + 1) % players g.multiplayer)
          readJoypad := false }
      else g
    else { g with readJoypad := true }
  else g

/-- What one P1 write does to the engine: the line step, then the multiplayer step
(40_vram_bank_mux.md R175). -/
def engineWrite (c : Config) (sel : U2) (r : SgbRun) : SgbRun :=
  let t := lineStep c sel r
  { t with sgb := multiplayerStep sel t.sgb }

/-- `P1Write(data)` after the byte is stored (40_vram_bank_mux.md R175): the events it emits and the state. -/
def State.p1Write (s : State) (data : Byte) : State × List SgbCommand :=
  if s.sgbPresent then
    let t := engineWrite s.cfg (lineValue data) ⟨s.sgb, s.draws, []⟩
    (s.withSgb t.sgb t.draws, t.events)
  else (s, [])

end Sys2Proof.Machine
end

