-- ==== Sys2Proof/Machine/Bus.lean ====
section
/-! DEFINITION. vram_bank_mux (40_vram_bank_mux.md): the twelve memory-port requests. -/

namespace Sys2Proof.Machine

/-- VRAM_RD (40_vram_bank_mux.md R152). -/
def execVramRd (bank : BitVec 4) (addr : BitVec 14) (s : State) : Result :=
  answer s ((vramIndex s.cfg bank.toNat addr.toNat).map fun p => .byte (s.vramAt p))

/-- The write to a VRAM place; an absent bank is left alone (40_vram_bank_mux.md R153). -/
def State.vramPut (s : State) (p : VramPlace) (data : Byte) : State :=
  match p with
  | .absent => s
  | .byteAt i => s.memWrite .vram i data

/-- VRAM_WR (40_vram_bank_mux.md R153). -/
def execVramWr (bank : BitVec 4) (addr : BitVec 14) (data : Byte) (s : State) : Result :=
  asOwner 0x02 s (commit s ((vramIndex s.cfg bank.toNat addr.toNat).map fun p => s.vramPut p data))

/-- OAM_RD (40_vram_bank_mux.md R155). -/
def execOamRd (index : Byte) (s : State) : Result :=
  answer s ((oamByteIndex index).map fun i => .byte (s.memRead .oam i))

/-- OAM_WR (40_vram_bank_mux.md R156). -/
def execOamWr (index data : Byte) (s : State) : Result :=
  asOwner 0x04 s (commit s ((oamByteIndex index).map fun i => s.memWrite .oam i data))

/-- ERAM_RD (40_vram_bank_mux.md R161). -/
def execEramRd (bank : BitVec 4) (addr : BitVec 14) (s : State) : Result :=
  answer s ((eramIndex s.cfg bank.toNat addr.toNat).map fun i => .byte (s.memRead .eram i))

/-- ERAM_WR (40_vram_bank_mux.md R162). -/
def execEramWr (bank : BitVec 4) (addr : BitVec 14) (data : Byte) (s : State) : Result :=
  asOwner 0x06 s (commit s ((eramIndex s.cfg bank.toNat addr.toNat).map fun i => s.memWrite .eram i data))

/-- ERAMF_RD (40_vram_bank_mux.md R166). -/
def execEramfRd (faddr : BitVec 17) (s : State) : Result :=
  answer s ((flatIndex s.cfg faddr).map fun i => .byte (s.memRead .eram i))

/-- ERAMF_WR (40_vram_bank_mux.md R167). -/
def execEramfWr (faddr : BitVec 17) (data : Byte) (s : State) : Result :=
  asOwner 0x08 s (commit s ((flatIndex s.cfg faddr).map fun i => s.memWrite .eram i data))

/-- The byte an I/O read returns: P1 is composed, every other register is stored
(40_vram_bank_mux.md R172, R176). -/
def State.ioRead (s : State) (index : Byte) : Byte :=
  if index.toNat = ioP1 then s.p1Read else s.memRead .io index.toNat

/-- IO_RD (40_vram_bank_mux.md R172). -/
def execIoRd (index : Byte) (s : State) : Result := answer s (.ok (.byte (s.ioRead index)))

/-- An I/O write: the byte is stored, then P1 drives the SGB engine (40_vram_bank_mux.md R173, R175). -/
def State.ioWrite (s : State) (index data : Byte) : State × List SgbCommand :=
  let t := s.memWrite .io index.toNat data
  if index.toNat = ioP1 then t.p1Write data else (t, [])

/-- IO_WR; the response carries the events P1Write emitted (40_vram_bank_mux.md R173). -/
def execIoWr (index data : Byte) (s : State) : Result :=
  asOwner 0x0A s (.next ((s.ioWrite index data).1.respondWith .none (s.ioWrite index data).2))

/-- PAL_RD (40_vram_bank_mux.md R178). -/
def execPalRd (sel : PalTable) (index : Byte) (s : State) : Result :=
  answer s ((palByteIndex index).map fun i => .byte (s.memRead (palSpace sel) i))

/-- PAL_WR (40_vram_bank_mux.md R179). -/
def execPalWr (sel : PalTable) (index data : Byte) (s : State) : Result :=
  asOwner 0x0C s (commit s ((palByteIndex index).map fun i => s.memWrite (palSpace sel) i data))

end Sys2Proof.Machine
end

