-- ==== Sys2Proof/Machine/SgbPort.lean ====
section
/-! DEFINITION. The requests of sgb_packet_engine: SGB_INIT and SGB_END (44_sgb_packet_engine.md R311, R314) and
the SGB reads (R380 to R385), which write no state. -/

namespace Sys2Proof.Machine

/-- SGB_INIT (44_sgb_packet_engine.md R311). -/
def execSgbInit (s : State) : Result :=
  asOwner 0x28 s (commit s (.ok { s with sgbPresent := true, sgb := sgbAfterInit }))

/-- SGB_END (44_sgb_packet_engine.md R314). -/
def execSgbEnd (s : State) : Result := asOwner 0x29 s (commit s (.ok { s with sgbPresent := false }))

/-- SGB_STATUS (44_sgb_packet_engine.md R380). -/
def execSgbStatus (s : State) : Result :=
  answer s ((needSgb s).map fun _ => .status (statusOf s.sgb))

/-- SGB_PAL_RD (44_sgb_packet_engine.md R381). -/
def execSgbPalRd (p : BitVec 3) (c : BitVec 4) (s : State) : Result :=
  answer s ((needSgb s).map fun _ => .word (tabGet s.sgb.palette p.toNat c.toNat))

/-- SGB_SNESPAL_RD (44_sgb_packet_engine.md R382). -/
def execSgbSnespalRd (n : BitVec 9) (c : U2) (s : State) : Result :=
  answer s ((needSgb s).map fun _ => .word (tabGet s.sgb.snesPalette n.toNat c.toNat))

/-- Cell (`ty`, `tx`) of attribute file `n`. -/
def atfCell (g : SgbState) (n ty tx : Nat) : U2 :=
  match g.atfList[n]? with
  | some grid => tabGet grid ty tx
  | none => 0

/-- SGB_ATF_RD (44_sgb_packet_engine.md R383). -/
def execSgbAtfRd (n : BitVec 6) (tx ty : BitVec 5) (s : State) : Result :=
  answer s do
    needSgb s
    require (!(decide (45 ≤ n.toNat) || offTileGrid tx ty))
      ⟨.coordOutOfRange, .triple n.toNat tx.toNat ty.toNat⟩
    .ok (.u2 (atfCell s.sgb n.toNat ty.toNat tx.toNat))

/-- SGB_CURATF_RD (44_sgb_packet_engine.md R384). -/
def execSgbCuratfRd (tx ty : BitVec 5) (s : State) : Result :=
  answer s do
    needSgb s
    require (!offTileGrid tx ty) ⟨.coordOutOfRange, .pair tx.toNat ty.toNat⟩
    .ok (.u2 (tabGet s.sgb.curAtf ty.toNat tx.toNat))

/-- SGB_PKT_RD (44_sgb_packet_engine.md R385). -/
def execSgbPktRd (p : BitVec 3) (b : BitVec 4) (s : State) : Result :=
  answer s do
    needSgb s
    require (decide (p.toNat < 7)) ⟨.coordOutOfRange, .pair p.toNat b.toNat⟩
    .ok (.byte (tabGet s.sgb.data p.toNat b.toNat))

end Sys2Proof.Machine
end

