-- ==== Sys2Proof/Machine/Color.lean ====
section
/-! DEFINITION. palette_lut (41_palette_lut.md): the building blocks R200 to R205 and the three colour
requests R206, R207, R220. Every request of this file reads state and writes none. -/

namespace Sys2Proof.Machine

/-- `GRAY`, indexed by shade (10_state.md R59). -/
def gray (shade : U2) : Rgb8 :=
  match shade.toNat with
  | 0 => ⟨255, 255, 255⟩
  | 1 => ⟨168, 168, 168⟩
  | 2 => ⟨80, 80, 80⟩
  | _ => ⟨0, 0, 0⟩

/-- `BLACK` (10_state.md R59). -/
def black : Rgb8 := ⟨0, 0, 0⟩

/-- Bits `2ci+1 : 2ci` of a DMG palette register (10_state.md R41). -/
def shadeOf (reg : Byte) (ci : U2) : U2 := reg.extractLsb' (2 * ci.toNat) 2

/-- `Shade(reg, ci)` (41_palette_lut.md R201). -/
def State.shade (s : State) (reg : Nat) (ci : U2) : U2 := shadeOf (s.memRead .io reg) ci

/-- A 5-bit channel as 8 bits, shifted left by 3 (41_palette_lut.md R202). -/
def channel8 (v : BitVec 5) : Byte := v.setWidth 8 <<< 3

/-- `Expand15(w)` (41_palette_lut.md R202); bit 15 is ignored. -/
def expand15 (w : Half) : Rgb8 :=
  ⟨channel8 (w.extractLsb' 0 5), channel8 (w.extractLsb' 5 5), channel8 (w.extractLsb' 10 5)⟩

/-- The palette RAM of sprites or of the background (41_palette_lut.md R203). -/
def cgbTable (spr : Bool) : Space := if spr then .objPal else .bgPal

/-- `CgbColor(spr, pal, ci)` (41_palette_lut.md R203): a little-endian word. -/
def State.cgbColor (s : State) (spr : Bool) (pal : Nat) (ci : U2) : Rgb8 :=
  let i := pal * 8 + ci.toNat * 2
  expand15 (s.memRead (cgbTable spr) (i + 1) ++ s.memRead (cgbTable spr) i)

/-- OBP0 for sprite palette 0, else OBP1 (41_palette_lut.md R204, R205). -/
def objReg (pal : Nat) : Nat := if pal = 0 then ioObp0 else ioObp1

/-- `COMPAT_SPR(n, shade)` (00_scope.md R10). -/
def compatSprColor (c : Config) (n : Nat) (shade : U2) : Rgb8 :=
  match c.compatSpr[n]? with
  | some row => row[shade.toNat]
  | none => black

/-- `COMPAT_BG(shade)` (00_scope.md R10). -/
def compatBgColor (c : Config) (shade : U2) : Rgb8 := c.compatBg[shade.toNat]

/-- `CompatColor(spr, pal, ci)` (41_palette_lut.md R204). -/
def State.compatColor (s : State) (spr : Bool) (pal : Nat) (ci : U2) : Rgb8 :=
  if spr then
    if 1 < pal then black else compatSprColor s.cfg pal (s.shade (objReg pal) ci)
  else
    if 0 < pal then black else compatBgColor s.cfg (s.shade ioBgp ci)

/-- `DmgColor(spr, pal, ci)` (41_palette_lut.md R205). -/
def State.dmgColor (s : State) (spr : Bool) (pal : Nat) (ci : U2) : Except SpecFault Rgb8 :=
  if spr then
    if 1 < pal then .error ⟨.paletteOutOfRange, .num pal⟩ else .ok (gray (s.shade (objReg pal) ci))
  else .ok (gray (s.shade ioBgp ci))

/-- The body of RESOLVE_COLOR: the palette source is chosen by MODE alone (41_palette_lut.md R200, R206). -/
def State.resolve (s : State) (spr : Bool) (pal : Nat) (ci : U2) : Except SpecFault Rgb8 :=
  match s.cfg.mode with
  | .cgbEnabled => .ok (s.cgbColor spr pal ci)
  | .gbcCompat => .ok (s.compatColor spr pal ci)
  | .dmg => s.dmgColor spr pal ci

/-- The checks and the colour of RESOLVE_SGB_COLOR (41_palette_lut.md R220). -/
def State.sgbColor (s : State) (tx ty : BitVec 5) (shade : U2) : Except SpecFault Rgb8 := do
  needSgb s
  require (!offTileGrid tx ty) ⟨.coordOutOfRange, .pair tx.toNat ty.toNat⟩
  .ok (expand15 (tabGet s.sgb.palette (tabGet s.sgb.curAtf ty.toNat tx.toNat).toNat shade.toNat))

/-- RESOLVE_COLOR (41_palette_lut.md R206). -/
def execResolveColor (spr : Bool) (pal : BitVec 3) (ci : U2) (s : State) : Result :=
  answer s ((s.resolve spr pal.toNat ci).map .rgb)

/-- RESOLVE_BG_COLOR: RESOLVE_COLOR with spr = 0 and pal = attr[2:0] (41_palette_lut.md R207). -/
def execResolveBgColor (attr : Byte) (ci : U2) (s : State) : Result :=
  answer s ((s.resolve false (attrPal attr) ci).map .rgb)

/-- RESOLVE_SGB_COLOR (41_palette_lut.md R220). -/
def execResolveSgbColor (tx ty : BitVec 5) (shade : U2) (s : State) : Result :=
  answer s ((s.sgbColor tx ty shade).map .rgb)

end Sys2Proof.Machine
end

