-- ==== Sys2Proof/Machine/Tile.lean ====
section
/-! DEFINITION. tile_decoder (42_tile_decoder.md): 2bpp rows R240, R241 and DECODE_TILE_ROW R242. -/

namespace Sys2Proof.Machine

/-- The colour index at bit `k` of a row's byte pair: high bit from byte 1, low bit from byte 0
(42_tile_decoder.md R241). -/
def pixelAt (b0 b1 : Byte) (k : Nat) : U2 := BitVec.ofBool (b1.getLsbD k) ++ BitVec.ofBool (b0.getLsbD k)

/-- The bit position read for output column `x` (42_tile_decoder.md R241). -/
def pixelBit (hflip : Bool) (x : Nat) : Nat := if hflip then x else 7 - x

/-- `Pixels(b0, b1, h)` (42_tile_decoder.md R241). -/
def pixels (b0 b1 : Byte) (hflip : Bool) : TileRow :=
  Vector.ofFn fun x => pixelAt b0 b1 (pixelBit hflip x.val)

/-- The bank-relative offset of byte 0 of row `r` of tile `t` (42_tile_decoder.md R240). -/
def rowOffset (t r : Nat) : Nat := t * 16 + 2 * r

/-- Row `r` of tile `t` of a bank, fetched and decoded (42_tile_decoder.md R240, R241). -/
def State.tileRow (s : State) (bank t r : Nat) (hflip : Bool) : TileRow :=
  pixels (s.vramFetch bank (rowOffset t r)) (s.vramFetch bank (rowOffset t r + 1)) hflip

/-- The row read under V-flip of an 8-row tile (42_tile_decoder.md R242). -/
def flippedRow (vflip : Bool) (row : BitVec 3) : Nat := if vflip then 7 - row.toNat else row.toNat

/-- A row as a 16-bit word: pixel x in bits `[15-2x : 14-2x]` (30_encoding.md R125). -/
def rowWord (p : TileRow) : Half := p.foldl (fun w c => w <<< 2 ||| c.setWidth 16) 0

/-- DECODE_TILE_ROW (42_tile_decoder.md R242). -/
def execDecodeTileRow (bank : BitVec 1) (tile : BitVec 9) (row : BitVec 3) (hflip vflip : Bool)
    (s : State) : Result :=
  answer s ((tileIndex tile).map fun t => .row (s.tileRow bank.toNat t (flippedRow vflip row) hflip))

end Sys2Proof.Machine
end

