-- ==== Sys2Proof/Machine/Sprite.lean ====
section
/-! DEFINITION. sprite_rasterizer (43_sprite_rasterizer.md): decode, visibility, rasterizing and layer
selection. Every request of this file reads state and writes none; the sink is outside the block. -/

namespace Sys2Proof.Machine

/-- The sprite's tile index: bit 0 forced to 0 for a 16-tall sprite (43_sprite_rasterizer.md R271). -/
def spriteTile (height : Nat) (tile : Byte) : Nat :=
  if height = 16 then (tile &&& 0xFE).toNat else tile.toNat

/-- The bank its tiles are read from (43_sprite_rasterizer.md R272). -/
def spriteBank (m : Mode) (info : Byte) : Nat :=
  match m with
  | .cgbEnabled => infoBank info
  | .gbcCompat => 0
  | .dmg => 0

/-- The palette number passed to the resolver (43_sprite_rasterizer.md R272). -/
def spritePal (m : Mode) (info : Byte) : Nat :=
  match m with
  | .cgbEnabled => infoCgbPal info
  | .gbcCompat => infoDmgPal info
  | .dmg => infoDmgPal info

/-- The physical row of logical row `r`, across the full height (43_sprite_rasterizer.md R273). -/
def physicalRow (yflip : Bool) (height r : Nat) : Nat := if yflip then height - r - 1 else r

/-- Row `r` of the grid of an entry (43_sprite_rasterizer.md R274). -/
def State.spriteRow (s : State) (e : OamEntryView) (r : Nat) : TileRow :=
  s.tileRow (spriteBank s.cfg.mode e.info) (spriteTile s.spriteHeight e.tile)
    (physicalRow (infoYflip e.info) s.spriteHeight r) (infoXflip e.info)

/-- The grid `G` of DECODE_SPRITE (43_sprite_rasterizer.md R274). -/
def State.spriteGrid (s : State) (e : OamEntryView) : List TileRow :=
  (List.range s.spriteHeight).map (s.spriteRow e)

/-- The visibility predicate (43_sprite_rasterizer.md R283). -/
def spriteOnScreen (height : Nat) (e : OamEntryView) : Bool :=
  let lowY := if height = 16 then 0 else 8
  decide (0 < e.x.toNat) && decide (e.x.toNat < 168) && decide (lowY < e.y.toNat) && decide (e.y.toNat < 160)

/-- Screen column of sprite pixel `x`: `X - 8 + x`, signed (43_sprite_rasterizer.md R280); no request
consults it. -/
def screenColumn (e : OamEntryView) (x : Nat) : Int := (e.x.toNat : Int) - 8 + x

/-- Screen row of sprite row `r`: `Y - 16 + r`, signed (43_sprite_rasterizer.md R280). -/
def screenRow (e : OamEntryView) (r : Nat) : Int := (e.y.toNat : Int) - 16 + r

/-- The action of a transparent pixel (43_sprite_rasterizer.md R285, 41_palette_lut.md R210). -/
def clearAction (f : SinkFormat) : PixelAction :=
  match f with
  | .rgba => .writeRgba ⟨0, 0, 0⟩ 0
  | .rgb => .skip

/-- The action of an opaque pixel (43_sprite_rasterizer.md R285). -/
def opaqueAction (f : SinkFormat) (c : Rgb8) : PixelAction :=
  match f with
  | .rgba => .writeRgba c 255
  | .rgb => .write c

/-- The action for colour index `ci` (43_sprite_rasterizer.md R285). -/
def State.spriteAction (s : State) (pal : Nat) (ci : U2) : Except SpecFault PixelAction :=
  if ci = 0 then .ok (clearAction s.cfg.sinkFormat)
  else (s.resolve true pal ci).map (opaqueAction s.cfg.sinkFormat)

/-- The pixel coordinates of a sprite, row-major, as (column, row) (43_sprite_rasterizer.md R285). -/
def rasterOrder (height : Nat) : List (Nat × Nat) :=
  (List.range height).flatMap fun y => (List.range 8).map fun x => (x, y)

/-- One entry of the list `L` of RASTER_SPRITE (43_sprite_rasterizer.md R285). -/
def State.rasterPixel (s : State) (e : OamEntryView) (xy : Nat × Nat) : Except SpecFault PixelWrite :=
  (s.spriteAction (spritePal s.cfg.mode e.info) ((s.spriteRow e xy.2)[xy.1]?.getD 0)).map
    fun a => ⟨xy.1, xy.2, a⟩

/-- A function with faults over a list, in order, ending at the first fault. -/
def mapFaults {α β : Type} (f : α → Except SpecFault β) : List α → Except SpecFault (List β)
  | [] => .ok []
  | a :: rest =>
    match f a with
    | .error e => .error e
    | .ok b => (mapFaults f rest).map (fun bs => b :: bs)

/-- The list `L` of RASTER_SPRITE (43_sprite_rasterizer.md R285). -/
def State.rasterList (s : State) (e : OamEntryView) : Except SpecFault (List PixelWrite) :=
  mapFaults (s.rasterPixel e) (rasterOrder s.spriteHeight)

/-- The selection rule of COMPOSE_PIXEL (43_sprite_rasterizer.md R290). -/
def State.selectLayer (s : State) (bgci : U2) (bgpri : Bool) (objci : U2) (objpri : Bool) : Layer :=
  let cgb := decide (s.cfg.mode = .cgbEnabled)
  if objci = 0 then .bg
  else if cgb && !s.bgMaster then .obj
  else if cgb && bgpri && decide (bgci ≠ 0) then .bg
  else if objpri && decide (bgci ≠ 0) then .bg
  else .obj

/-- The element of its buffer at which the sink applies a pixel (43_sprite_rasterizer.md R286). -/
def sinkElement (offset stride : Nat) (p : PixelWrite) : Nat := offset + p.y * stride + p.x

/-- An element of the sink's buffer: a colour, with an alpha in an RGBA sink. -/
structure SinkPixel where
  color : Rgb8
  alpha : Byte
  deriving DecidableEq, Repr

/-- The sink applies one pixel to its own buffer (43_sprite_rasterizer.md R286). The block owns no buffer:
this is the collaborator's half of the rule, the alpha of an opaque RGB write is a filler (log 14). DESIGN CHOICE,
log 16: the rule gives the buffer no length, and a write whose element lies past the end changes nothing. -/
def sinkApply (offset stride : Nat) (buf : List SinkPixel) (p : PixelWrite) : List SinkPixel :=
  match p.action with
  | .skip => buf
  | .write c => buf.set (sinkElement offset stride p) ⟨c, 255⟩
  | .writeRgba c a => buf.set (sinkElement offset stride p) ⟨c, a⟩

/-- DECODE_SPRITE (43_sprite_rasterizer.md R274). -/
def execDecodeSprite (obj : BitVec 6) (s : State) : Result :=
  answer s ((objIndex obj).map fun i => .grid s.spriteHeight (s.spriteGrid (s.oamEntry i)))

/-- SPRITE_VISIBLE (43_sprite_rasterizer.md R283). -/
def execSpriteVisible (obj : BitVec 6) (s : State) : Result :=
  answer s ((objIndex obj).map fun i => .bool (spriteOnScreen s.spriteHeight (s.oamEntry i)))

/-- RASTER_SPRITE (43_sprite_rasterizer.md R285). -/
def execRasterSprite (obj : BitVec 6) (s : State) : Result :=
  answer s ((objIndex obj).bind fun i => (s.rasterList (s.oamEntry i)).map .pixels)

/-- COMPOSE_PIXEL (43_sprite_rasterizer.md R290). -/
def execComposePixel (bgci : U2) (bgpri : Bool) (objci : U2) (objpri : Bool) (s : State) : Result :=
  answer s (.ok (.layer (s.selectLayer bgci bgpri objci objpri)))

end Sys2Proof.Machine
end

