-- ==== Sys2Proof/Machine/Dispatch.lean ====
section
/-! DEFINITION. One arm per request of 30_encoding.md R123. -/

namespace Sys2Proof.Machine

def exec (i : Instr) (s : State) : Host.Outcome State Fault Refusal :=
  match i with
  | .vramRd bank addr => Sys2Proof.Machine.execVramRd bank addr s
  | .vramWr bank addr data => Sys2Proof.Machine.execVramWr bank addr data s
  | .oamRd index => Sys2Proof.Machine.execOamRd index s
  | .oamWr index data => Sys2Proof.Machine.execOamWr index data s
  | .eramRd bank addr => Sys2Proof.Machine.execEramRd bank addr s
  | .eramWr bank addr data => Sys2Proof.Machine.execEramWr bank addr data s
  | .eramfRd faddr => Sys2Proof.Machine.execEramfRd faddr s
  | .eramfWr faddr data => Sys2Proof.Machine.execEramfWr faddr data s
  | .ioRd index => Sys2Proof.Machine.execIoRd index s
  | .ioWr index data => Sys2Proof.Machine.execIoWr index data s
  | .palRd sel index => Sys2Proof.Machine.execPalRd sel index s
  | .palWr sel index data => Sys2Proof.Machine.execPalWr sel index data s
  | .resolveColor spr pal ci => Sys2Proof.Machine.execResolveColor spr pal ci s
  | .resolveBgColor attr ci => Sys2Proof.Machine.execResolveBgColor attr ci s
  | .resolveSgbColor tx ty shade => Sys2Proof.Machine.execResolveSgbColor tx ty shade s
  | .decodeTileRow bank tile row hflip vflip => Sys2Proof.Machine.execDecodeTileRow bank tile row hflip vflip s
  | .decodeSprite obj => Sys2Proof.Machine.execDecodeSprite obj s
  | .spriteVisible obj => Sys2Proof.Machine.execSpriteVisible obj s
  | .rasterSprite obj => Sys2Proof.Machine.execRasterSprite obj s
  | .composePixel bgci bgpri objci objpri => Sys2Proof.Machine.execComposePixel bgci bgpri objci objpri s
  | .sgbInit => Sys2Proof.Machine.execSgbInit s
  | .sgbEnd => Sys2Proof.Machine.execSgbEnd s
  | .sgbStatus => Sys2Proof.Machine.execSgbStatus s
  | .sgbPalRd p c => Sys2Proof.Machine.execSgbPalRd p c s
  | .sgbSnespalRd n c => Sys2Proof.Machine.execSgbSnespalRd n c s
  | .sgbAtfRd n tx ty => Sys2Proof.Machine.execSgbAtfRd n tx ty s
  | .sgbCuratfRd tx ty => Sys2Proof.Machine.execSgbCuratfRd tx ty s
  | .sgbPktRd p b => Sys2Proof.Machine.execSgbPktRd p b s

end Sys2Proof.Machine
end

