-- ==== Sys2Proof/Machine/Step.lean ====
section
/-! DEFINITION. One step: the next request is taken from the port, decoded and performed
(10_state.md R31, 30_encoding.md R124). -/

namespace Sys2Proof.Machine

/-- The request `r` is performed: IllegalRequest if its word is no request, else its meaning. -/
def perform (r : Request) (s : State) : Host.Outcome State Fault Refusal :=
  match decode r.word with
  | .ok i => exec i s
  | .error _ => .next (s.raise (illegalRequest r.word))

/-- One step. With no request presented nothing changes (70_reset_and_hazards.md R446). -/
def step (s : State) : Host.Outcome State Fault Refusal :=
  match s.fetch with
  | none => .next s
  | some (r, t) => perform r t

/-- The word `w` of `nbits` bits presented by the Owner as the next request, before any that wait (log 10). -/
def State.withFetchWord (s : State) (nbits w : Nat) : State :=
  { s with pending := ⟨requestWord nbits w, .owner⟩ :: s.pending }

end Sys2Proof.Machine
end

