-- ==== Sys2Proof/Machine/Assembler.lean ====
section
/-! DEFINITION. The assembler text of a request (30_encoding.md R126) and the pseudo-instructions with their
expansions (R127). Notation for drivers: the block itself never sees it. -/

namespace Sys2Proof.Machine

/-- The mnemonic of a request, from the opcode map (30_encoding.md R123). -/
def mnemonicOf (i : Instr) : String :=
  match rowOf i with
  | some r => r.mnemonic
  | none => ""

/-- A flag as the assembler writes it: 0 or 1 (30_encoding.md R126). -/
def flagNumber (b : Bool) : Nat := if b then 1 else 0

/-- The operands in the order the format lists its fields from the high bits down (30_encoding.md R126). -/
def operandNumbers : Instr → List Nat
  | .vramRd bank addr => [bank.toNat, addr.toNat]
  | .vramWr bank addr data => [bank.toNat, addr.toNat, data.toNat]
  | .oamRd index => [index.toNat]
  | .oamWr index data => [index.toNat, data.toNat]
  | .eramRd bank addr => [bank.toNat, addr.toNat]
  | .eramWr bank addr data => [bank.toNat, addr.toNat, data.toNat]
  | .eramfRd faddr => [faddr.toNat]
  | .eramfWr faddr data => [faddr.toNat, data.toNat]
  | .ioRd index => [index.toNat]
  | .ioWr index data => [index.toNat, data.toNat]
  | .palRd sel index => [(palTableBit sel).toNat, index.toNat]
  | .palWr sel index data => [(palTableBit sel).toNat, index.toNat, data.toNat]
  | .resolveColor spr pal ci => [flagNumber spr, pal.toNat, ci.toNat]
  | .resolveBgColor attr ci => [attr.toNat, ci.toNat]
  | .resolveSgbColor tx ty shade => [tx.toNat, ty.toNat, shade.toNat]
  | .decodeTileRow bank tile row hflip vflip =>
      [bank.toNat, tile.toNat, row.toNat, flagNumber hflip, flagNumber vflip]
  | .decodeSprite obj => [obj.toNat]
  | .spriteVisible obj => [obj.toNat]
  | .rasterSprite obj => [obj.toNat]
  | .composePixel bgci bgpri objci objpri =>
      [bgci.toNat, flagNumber bgpri, objci.toNat, flagNumber objpri]
  | .sgbInit => []
  | .sgbEnd => []
  | .sgbStatus => []
  | .sgbPalRd p c => [p.toNat, c.toNat]
  | .sgbSnespalRd n c => [n.toNat, c.toNat]
  | .sgbAtfRd n tx ty => [n.toNat, tx.toNat, ty.toNat]
  | .sgbCuratfRd tx ty => [tx.toNat, ty.toNat]
  | .sgbPktRd p b => [p.toNat, b.toNat]

/-- The agent suffix; the default is the Owner (30_encoding.md R126). -/
def agentSuffix : Agent → String
  | .owner => ""
  | .observer => " @observer"

/-- One line of assembler text, its numbers in decimal (30_encoding.md R126). -/
def assemblerLine (i : Instr) (a : Agent) : String :=
  match operandNumbers i with
  | [] => mnemonicOf i ++ agentSuffix a
  | ns => mnemonicOf i ++ " " ++ String.intercalate ", " (ns.map toString) ++ agentSuffix a

/-- `P1 v` (30_encoding.md R127). -/
def pseudoP1 (v : Byte) : List Instr := [.ioWr 0x00 v]
/-- `LCDC v`. -/
def pseudoLcdc (v : Byte) : List Instr := [.ioWr 0x40 v]
/-- `BGP v`. -/
def pseudoBgp (v : Byte) : List Instr := [.ioWr 0x47 v]
/-- `OBP0 v`. -/
def pseudoObp0 (v : Byte) : List Instr := [.ioWr 0x48 v]
/-- `OBP1 v`. -/
def pseudoObp1 (v : Byte) : List Instr := [.ioWr 0x49 v]

/-- `VRAM_WRC bank, a, v` for 0x8000 ≤ a ≤ 0x9FFF. -/
def pseudoVramWrc (bank : BitVec 4) (a : Nat) (v : Byte) : List Instr :=
  [.vramWr bank (BitVec.ofNat 14 (a - 0x8000)) v]

/-- `VRAM_RDC bank, a` for 0x8000 ≤ a ≤ 0x9FFF. -/
def pseudoVramRdc (bank : BitVec 4) (a : Nat) : List Instr := [.vramRd bank (BitVec.ofNat 14 (a - 0x8000))]

/-- `OAM_ENTRY i, y, x, t, f`. -/
def pseudoOamEntry (i : Nat) (y x t f : Byte) : List Instr :=
  [.oamWr (BitVec.ofNat 8 (4 * i)) y, .oamWr (BitVec.ofNat 8 (4 * i + 1)) x,
   .oamWr (BitVec.ofNat 8 (4 * i + 2)) t, .oamWr (BitVec.ofNat 8 (4 * i + 3)) f]

/-- `PAL_COLOR s, p, c, w16`. -/
def pseudoPalColor (sel : PalTable) (p c : Nat) (w : Half) : List Instr :=
  [.palWr sel (BitVec.ofNat 8 (8 * p + 2 * c)) (w.extractLsb' 0 8),
   .palWr sel (BitVec.ofNat 8 (8 * p + 2 * c + 1)) (w.extractLsb' 8 8)]

/-- `TILE_ROW bank, t, r, lo, hi`. -/
def pseudoTileRow (bank : BitVec 4) (t r : Nat) (lo hi : Byte) : List Instr :=
  [.vramWr bank (BitVec.ofNat 14 (16 * t + 2 * r)) lo, .vramWr bank (BitVec.ofNat 14 (16 * t + 2 * r + 1)) hi]

/-- The P1 values of `SGB_PULSE`. -/
def pulseWrites : List Byte := [0x00, 0x30]

/-- The P1 values of `SGB_BIT b`. -/
def bitWrites (b : Bool) : List Byte := [if b then 0x10 else 0x20, 0x30]

/-- The P1 values of `SGB_BYTE v`: bit 0 first. -/
def byteWrites (v : Byte) : List Byte := (List.range 8).flatMap fun k => bitWrites (v.getLsbD k)

/-- The P1 values of the data bits of a packet, without the pulse and the stop bit. -/
def packetBits (d : List Byte) : List Byte := d.flatMap byteWrites

/-- `SGB_PULSE`. -/
def pseudoSgbPulse : List Instr := pulseWrites.flatMap pseudoP1
/-- `SGB_BIT b`. -/
def pseudoSgbBit (b : Bool) : List Instr := (bitWrites b).flatMap pseudoP1
/-- `SGB_BYTE v`. -/
def pseudoSgbByte (v : Byte) : List Instr := (byteWrites v).flatMap pseudoP1

/-- `SGB_PACKET d0, ..., d15`: a pulse, 16 bytes and a stop bit. -/
def pseudoSgbPacket (d : List Byte) : List Instr :=
  (pulseWrites ++ packetBits d ++ bitWrites false).flatMap pseudoP1

end Sys2Proof.Machine
end

