-- ==== Sys2Proof/WellFormed.lean ====
section
/-! DEFINITION. Which requests and which configurations are well formed. The widths of the formats are the
operand types of `Instr`; what is left to check is the operand ranges. -/

namespace Sys2Proof

/-- A screen tile coordinate is on the 20 x 18 grid (41_palette_lut.md R220). -/
def onTileGrid (tx ty : BitVec 5) : Bool := decide (tx.toNat < 20) && decide (ty.toNat < 18)

/-- Every check that the request's rule makes on its operands alone passes. A request that is not well
formed still decodes and runs: it takes the typed fault of 60_exceptions.md R401 (log 13). -/
def Instr.wf : Instr → Bool
  | .vramRd bank addr => decide (bank.toNat ≤ 1) && decide (addr.toNat ≤ 0x1FFF)
  | .vramWr bank addr _ => decide (bank.toNat ≤ 1) && decide (addr.toNat ≤ 0x1FFF)
  | .oamRd index => decide (index.toNat < 160)
  | .oamWr index _ => decide (index.toNat < 160)
  | .eramRd _ addr => decide (addr.toNat ≤ 0x1FFF)
  | .eramWr _ addr _ => decide (addr.toNat ≤ 0x1FFF)
  | .eramfRd _ => true
  | .eramfWr _ _ => true
  | .ioRd _ => true
  | .ioWr _ _ => true
  | .palRd _ index => decide (index.toNat < 64)
  | .palWr _ index _ => decide (index.toNat < 64)
  | .resolveColor _ _ _ => true
  | .resolveBgColor _ _ => true
  | .resolveSgbColor tx ty _ => onTileGrid tx ty
  | .decodeTileRow _ tile _ _ _ => decide (tile.toNat < 384)
  | .decodeSprite obj => decide (obj.toNat < 40)
  | .spriteVisible obj => decide (obj.toNat < 40)
  | .rasterSprite obj => decide (obj.toNat < 40)
  | .composePixel _ _ _ _ => true
  | .sgbInit => true
  | .sgbEnd => true
  | .sgbStatus => true
  | .sgbPalRd _ _ => true
  | .sgbSnespalRd _ _ => true
  | .sgbAtfRd n tx ty => decide (n.toNat < 45) && onTileGrid tx ty
  | .sgbCuratfRd tx ty => onTileGrid tx ty
  | .sgbPktRd p _ => decide (p.toNat < 7)

/-- The ranges 00_scope.md R10 gives its parameters; 93_implementation_defined.md I18 refuses more banks. -/
def Config.wf (c : Config) : Bool :=
  decide (c.nEramBanks ≤ 16) && decide (1 ≤ c.sgbLen0Packets) && decide (c.sgbLen0Packets ≤ 7)

end Sys2Proof
end

