-- ==== Sys2Proof/Safety.lean ====
section
/-! DEFINITION. The terms the statements use: the invariant of an instance, what it means that a request leaves
the block alone, which faults a request can raise, and a fault-free step. -/

namespace Sys2Proof.Machine

/-- The cursor invariants of 10_state.md R55 (its "nothing is being received" is read as cursors at 0, log
11), the bound of `numpackets` (R46) and of `current_joypad` (R53). -/
structure SgbState.Inv (g : SgbState) : Prop where
  bit : g.currbit < 8
  byte : g.currbyte < 16
  packet : g.currpacket ≤ 7
  count : g.numpackets ≤ 7
  idle : g.sending = false → g.currbit = 0 ∧ g.currbyte = 0 ∧ g.waitReset = false
  between : g.waitReset = true →
    g.sending = true ∧ g.currbit = 0 ∧ g.currbyte = 0 ∧ 1 ≤ g.currpacket ∧ g.currpacket < g.numpackets
  receiving : g.sending = true → 1 ≤ g.currpacket → g.currpacket < g.numpackets
  joypad : g.currentJoypad.toNat < players g.multiplayer

/-- Bytes of VRAM that are state: bank 1 is absent in DMG mode (10_state.md R34). -/
def vramBytes (c : Config) : Nat :=
  match c.mode with
  | .dmg => 0x2000
  | .gbcCompat => 0x4000
  | .cgbEnabled => 0x4000

/-- Bytes of a storage space (20_memory.md R80). -/
def spaceBytes (c : Config) : Space → Nat
  | .vram => vramBytes c
  | .oam => 160
  | .eram => c.nEramBanks * 0x2000
  | .io => 256
  | .bgPal => 64
  | .objPal => 64

/-- A stored array is canonical and lists only bytes that exist. -/
def arrayOk (m : Memory) (n : Nat) : Prop := Memory.wf m = true ∧ memBelow m n = true

/-- The invariant of an instance. -/
structure State.Inv (s : State) : Prop where
  config : s.cfg.wf = true
  arrays : ∀ sp, arrayOk (s.space sp) (spaceBytes s.cfg sp)
  engine : s.sgbPresent = true → s.sgb.Inv
  log : s.faultLog.length ≤ s.index

/-- The `INIT_*` contents fit a configuration (70_reset_and_hazards.md R430). -/
def InitContents.fits (init : InitContents) (c : Config) : Prop :=
  ∀ sp, arrayOk ((State.construct c init).space sp) (spaceBytes c sp)

/-- Two states hold the same state of 10_state.md R30 to R54, the same configuration and the same draw
count: they differ at most in the request index, the fault log, the port and the reply. -/
structure sameHardware (s t : State) : Prop where
  cfg : t.cfg = s.cfg
  bytes : ∀ sp a, t.memRead sp a = s.memRead sp a
  arrays : ∀ sp, t.space sp = s.space sp
  present : t.sgbPresent = s.sgbPresent
  sgb : t.sgb = s.sgb
  draws : t.draws = s.draws

/-- The faults a request can raise besides IllegalRequest and AccessDenied (60_exceptions.md R402). -/
def faultsOf (m : Mode) : Instr → List FaultCode
  | .vramRd _ _ => [.bankOutOfRange, .addrOutOfRange]
  | .vramWr _ _ _ => [.bankOutOfRange, .addrOutOfRange]
  | .oamRd _ => [.addrOutOfRange]
  | .oamWr _ _ => [.addrOutOfRange]
  | .eramRd _ _ => [.bankOutOfRange, .addrOutOfRange]
  | .eramWr _ _ _ => [.bankOutOfRange, .addrOutOfRange]
  | .eramfRd _ => [.bankOutOfRange]
  | .eramfWr _ _ => [.bankOutOfRange]
  | .ioRd _ => []
  | .ioWr _ _ => []
  | .palRd _ _ => [.addrOutOfRange]
  | .palWr _ _ _ => [.addrOutOfRange]
  | .resolveColor _ _ _ =>
    match m with
    | .dmg => [.paletteOutOfRange]
    | .gbcCompat => []
    | .cgbEnabled => []
  | .resolveBgColor _ _ => []
  | .resolveSgbColor _ _ _ => [.sgbAbsent, .coordOutOfRange]
  | .decodeTileRow _ _ _ _ _ => [.tileOutOfRange]
  | .decodeSprite _ => [.oamIndexOutOfRange]
  | .spriteVisible _ => [.oamIndexOutOfRange]
  | .rasterSprite _ => [.oamIndexOutOfRange]
  | .composePixel _ _ _ _ => []
  | .sgbInit => []
  | .sgbEnd => []
  | .sgbStatus => [.sgbAbsent]
  | .sgbPalRd _ _ => [.sgbAbsent]
  | .sgbSnespalRd _ _ => [.sgbAbsent]
  | .sgbAtfRd _ _ _ => [.sgbAbsent, .coordOutOfRange]
  | .sgbCuratfRd _ _ => [.sgbAbsent, .coordOutOfRange]
  | .sgbPktRd _ _ => [.sgbAbsent, .coordOutOfRange]

/-- A step is safe when it answers a next state and logs no fault. -/
def SafeStep (s : State) : Prop := ∃ t, step s = .next t ∧ t.faultLog = s.faultLog

/-- A fault response. -/
def Response.isFault : Response → Bool
  | .fault _ _ => true
  | .none => false
  | .byte _ => false
  | .word _ => false
  | .rgb _ => false
  | .row _ => false
  | .grid _ _ => false
  | .bool _ => false
  | .pixels _ => false
  | .layer _ => false
  | .u2 _ => false
  | .status _ => false

/-- What a sequence of P1 writes does to a present engine (40_vram_bank_mux.md R175): the engine's share of
the IO_WR requests that write these values to index 0. -/
def engineWrites (c : Config) : List Byte → SgbRun → SgbRun
  | [], r => r
  | v :: rest, r => engineWrites c rest (engineWrite c (lineValue v) r)

end Sys2Proof.Machine
end

