-- ==== Sys2Proof/Certificates/Slice0/Obligations.lean ====
section
/-! DEFINITION. The statements for the provers, in the order of OBLIGATIONS.json. Numbers of bits and bytes are
written as numbers (`toNat`, `/`, `%`), so that a statement is a second account of the rule it cites and not the
model's own expression. -/

open Sys2Proof Sys2Proof.Machine

/-! ## Terms of the statements -/

/-- Bit `k` of a byte as a number. -/
def Sys2Proof.Machine.bitOf (v : Byte) (k : Nat) : Nat := v.toNat / 2 ^ k % 2

/-- The fetch of 40_vram_bank_mux.md R154, written out. -/
def Sys2Proof.Machine.fetchedByte (s : State) (bank off : Nat) : Byte :=
  if bank = 1 ∧ s.cfg.mode = .dmg then s.cfg.dmgBank1Read else s.memRead .vram (bank * 0x2000 + off)

/-- A shade as a number: two bits of a DMG palette register (41_palette_lut.md R201). -/
def Sys2Proof.Machine.shadeNumber (s : State) (reg : Nat) (ci : U2) : Nat :=
  (s.memRead .io reg).toNat / 4 ^ ci.toNat % 4

/-- A colour whose channels are the three 5-bit fields of a colour word, times 8 (41_palette_lut.md R202). -/
def Sys2Proof.Machine.isExpansion (w : Nat) (c : Rgb8) : Prop :=
  c.r.toNat = 8 * (w % 32) ∧ c.g.toNat = 8 * (w / 32 % 32) ∧ c.b.toNat = 8 * (w / 1024 % 32)

/-- The grayscale triple of a shade (10_state.md R59). -/
def Sys2Proof.Machine.grayTriple (n : Nat) (c : Rgb8) : Prop :=
  (n = 0 → c = ⟨255, 255, 255⟩) ∧ (n = 1 → c = ⟨168, 168, 168⟩) ∧ (n = 2 → c = ⟨80, 80, 80⟩) ∧
    (n = 3 → c = ⟨0, 0, 0⟩)

/-- Everything but the stored bytes, the fault log and the reply is as it was. -/
structure Sys2Proof.Machine.sameControl (s t : State) : Prop where
  cfg : t.cfg = s.cfg
  present : t.sgbPresent = s.sgbPresent
  sgb : t.sgb = s.sgb
  draws : t.draws = s.draws
  index : t.index = s.index
  pending : t.pending = s.pending
  port : t.port = s.port

/-- A fault response adds its own entry, for the request at the port, to the log; a normal response leaves the log
as it was (60_exceptions.md R405). -/
structure Sys2Proof.Machine.logFollowsReply (s t : State) : Prop where
  fault : ∀ c f, t.reply.resp = .fault c f →
    t.faultLog = s.faultLog ++ [⟨s.port.word, s.port.agent, c, f⟩]
  normal : t.reply.resp.isFault = false → t.faultLog = s.faultLog

/-- Every byte but byte `a` of space `sp` reads as before. -/
def Sys2Proof.Machine.onlyByte (s t : State) (sp : Space) (a : Nat) : Prop :=
  ∀ sp' b, ¬(sp' = sp ∧ b = a) → t.memRead sp' b = s.memRead sp' b

/-- Every byte reads as before. -/
def Sys2Proof.Machine.noByte (s t : State) : Prop := ∀ sp b, t.memRead sp b = s.memRead sp b

/-- The packet buffer after the bit of line value `sel` is shifted into the byte at the cursors from the top
(44_sgb_packet_engine.md R332). -/
def Sys2Proof.Machine.shiftedBuffer (g : SgbState) (sel : U2) : Table Byte 7 16 :=
  tabSet g.data g.currpacket g.currbyte
    (BitVec.ofNat 8 ((tabGet g.data g.currpacket g.currbyte).toNat / 2 + if sel = 0b01 then 128 else 0))

/-- The little-endian word at byte `i` of packet 0 as a number: low byte first (44_sgb_packet_engine.md R342). -/
def Sys2Proof.Machine.packetWord (g : SgbState) (i : Nat) : Nat :=
  (tabGet g.data 0 i).toNat + 256 * (tabGet g.data 0 (i + 1)).toNat

/-- The packet count once the packet at the cursor completes (44_sgb_packet_engine.md R334, R335). -/
def Sys2Proof.Machine.packetsOf (c : Config) (g : SgbState) : Nat :=
  let h := (tabGet g.data 0 0).toNat
  if g.currpacket = 0 then (if h % 8 ≠ 0 then h % 8 else c.sgbLen0Packets) else g.numpackets

/-- The record with the packet at the cursor complete (44_sgb_packet_engine.md R332 to R335). -/
def Sys2Proof.Machine.nextPacket (c : Config) (g : SgbState) (sel : U2) : SgbState :=
  { g with
    data := shiftedBuffer g sel
    currbit := 0
    currbyte := 0
    currpacket := g.currpacket + 1
    numpackets := packetsOf c g }

/-! ## Encoding and the step -/

/-- Decoding an encoded request gives it back, with every operand at every value (30_encoding.md). -/
def Obligations.EncodeThenDecodeGivesTheRequest : Prop := ∀ i : Instr, decode (encode i) = .ok i

/-- Each word has one meaning: a word that decodes is the word of its request, so no bit of it is dropped
(30_encoding.md). -/
def Obligations.DecodeThenEncodeGivesTheWord : Prop :=
  ∀ (w : Word) (i : Instr), decode w = .ok i → encode i = w

/-- R123: a word decodes to the row it matches, and matches at most one. -/
def Obligations.WordsDecodeToTheRowTheyMatch : Prop :=
  (∀ (w : Word) (r : OpRow), r ∈ opcodeMap →
    (w &&& r.mask = r.matchBits ↔ ∃ i, decode w = .ok i ∧ rowOf i = some r)) ∧
  (∀ (w : Word) (r r' : OpRow), r ∈ opcodeMap → r' ∈ opcodeMap → w &&& r.mask = r.matchBits →
    w &&& r'.mask = r'.matchBits → r = r')

/-- Words written out from the formats of 30_encoding.md decode to the requests they stand for. -/
def Obligations.WrittenOutWordsDecode : Prop :=
  decode 0x0800103C = .ok (.vramWr 0 0x10 0x3C) ∧ decode 0x0C009F00 = .ok (.oamRd 159) ∧
  decode 0x21F00012 = .ok (.eramfWr 0x1F000 0x12) ∧ decode 0x3200081F = .ok (.palWr .obj 0x08 0x1F) ∧
  decode 0x440D0000 = .ok (.resolveBgColor 0x03 1) ∧
  decode 0x6001D800 = .ok (.decodeTileRow 0 1 6 true true) ∧ decode 0x84500000 = .ok (.spriteVisible 5) ∧
  decode 0x8E300000 = .ok (.composePixel 2 false 1 true) ∧ decode 0xB429C400 = .ok (.sgbAtfRd 2 19 17) ∧
  decode 0x00000000 = .error .unassignedOpcode ∧ decode 0x2E800000 = .error .reservedBits

/-- R111: an unassigned opcode or a set reserved bit is IllegalRequest with the word and changes no state; the
all-zero word is one such word. -/
def Obligations.IllegalWordsFaultAndChangeNothing : Prop :=
  (∀ (s : State) (r : Request) (rest : List Request) (e : DecodeError), s.pending = r :: rest →
    decode r.word = .error e →
    ∃ t, step s = .next t ∧ t.reply = ⟨.fault .illegalRequest (.num r.word.toNat), []⟩ ∧ sameHardware s t ∧
      t.faultLog = s.faultLog ++ [⟨r.word, r.agent, .illegalRequest, .num r.word.toNat⟩]) ∧
  (∀ w : Word, (∃ e, decode w = .error e) ↔ ∀ r ∈ opcodeMap, w &&& r.mask ≠ r.matchBits) ∧
  decode 0 = .error .unassignedOpcode

/-- A step runs the request its word decodes to, on the state with that request at the port, the queue behind
it and the request index one further (10_state.md, 30_encoding.md); with no request presented the block changes
nothing (70_reset_and_hazards.md R446). The queue and the port are the model's own fields (logs 1 and 2). -/
def Obligations.StepPerformsTheDecodedRequest : Prop :=
  (∀ (s : State) (r : Request) (rest : List Request) (i : Instr), s.pending = r :: rest →
    decode r.word = .ok i → step s = exec i { s with pending := rest, port := r, index := s.index + 1 }) ∧
  (∀ s : State, s.pending = [] → step s = .next s)

/-- Every request, faulting or not, takes one step to a next state, and the index advances by one
(10_state.md, 70_reset_and_hazards.md). That a fault is a next state is the model's reading (log 9). -/
def Obligations.EveryRequestTakesOneStep : Prop :=
  ∀ (s : State) (r : Request) (rest : List Request), s.pending = r :: rest →
    ∃ t, step s = .next t ∧ t.index = s.index + 1 ∧ t.pending = rest ∧ t.port = r

/-! ## Invariant, construction, configuration -/

/-- Every step keeps the invariant: canonical arrays in range, a legal configuration, the SGB cursor invariants
of 10_state.md, a log no longer than the requests performed. That an idle engine has both cursors at 0 is the
model's reading of "nothing is being received" (log 11). -/
def Obligations.EveryStepKeepsTheInvariant : Prop :=
  ∀ s t : State, s.Inv → step s = .next t → t.Inv

/-- The reset state, whose values are the model's choices (logs 3 to 7), meets the invariant. -/
def Obligations.ResetMeetsTheInvariant : Prop := State.reset.Inv

/-- Construction (70_reset_and_hazards.md): the parameters' contents, no engine, an empty log, and the invariant,
for every well-formed configuration and contents that fit it. -/
def Obligations.ConstructionGivesTheParameters : Prop :=
  ∀ (c : Config) (init : InitContents), c.wf = true → init.fits c →
    (State.construct c init).Inv ∧ (State.construct c init).cfg = c ∧
    (State.construct c init).sgbPresent = false ∧ (State.construct c init).faultLog = [] ∧
    ∀ a, (State.construct c init).memRead .vram a = memGet init.vram a ∧
      (State.construct c init).memRead .oam a = memGet init.oam a ∧
      (State.construct c init).memRead .eram a = memGet init.eram a ∧
      (State.construct c init).memRead .io a = memGet init.io a ∧
      (State.construct c init).memRead .bgPal a = memGet init.bgPal a ∧
      (State.construct c init).memRead .objPal a = memGet init.objPal a

/-- R32: no request writes the configuration. -/
def Obligations.NoRequestWritesTheConfiguration : Prop :=
  ∀ s t : State, step s = .next t → t.cfg = s.cfg

/-! ## Faults and agents -/

/-- R404: a faulting request changes no state and emits no event. -/
def Obligations.FaultsArePreciseAndWithoutEffect : Prop :=
  ∀ (i : Instr) (s t : State) (c : FaultCode) (f : FaultInfo), exec i s = .next t →
    t.reply.resp = .fault c f → t.reply.events = [] ∧ sameHardware s t ∧ t.index = s.index ∧
      t.pending = s.pending ∧ t.port = s.port

/-- R57, R405: every fault response, and nothing else, is appended to the log as (word, agent, code, info);
nothing reads the log; it is empty at construction. -/
def Obligations.FaultLogHoldsExactlyTheFaults : Prop :=
  (∀ (s t : State) (r : Request) (rest : List Request), s.pending = r :: rest → step s = .next t →
    (∀ c f, t.reply.resp = .fault c f → t.faultLog = s.faultLog ++ [⟨r.word, r.agent, c, f⟩]) ∧
    (t.reply.resp.isFault = false → t.faultLog = s.faultLog)) ∧
  (∀ (i : Instr) (s t : State) (l : List FaultEntry), exec i s = .next t →
    ∃ t', exec i { s with faultLog := l } = .next t' ∧ t'.reply = t.reply ∧ sameHardware t t') ∧
  (∀ (c : Config) (init : InitContents), (State.construct c init).faultLog = [])

/-- R411: the eight Owner-only requests, what an Observer gets for one, and that every other request answers
both agents alike. -/
def Obligations.OwnerOnlyRequestsDenyObservers : Prop :=
  (∀ i : Instr, ownerOnly i = true ↔
    (∃ b a d, i = .vramWr b a d) ∨ (∃ x d, i = .oamWr x d) ∨ (∃ b a d, i = .eramWr b a d) ∨
    (∃ a d, i = .eramfWr a d) ∨ (∃ x d, i = .ioWr x d) ∨ (∃ p x d, i = .palWr p x d) ∨ i = .sgbInit ∨
    i = .sgbEnd) ∧
  (∀ (i : Instr) (s : State), ownerOnly i = true → s.port.agent = .observer →
    exec i s = .next (s.raise ⟨.accessDenied, .num (opcodeOf i).toNat⟩)) ∧
  (∀ (i : Instr) (s t : State) (a : Agent), ownerOnly i = false → exec i s = .next t →
    ∃ t', exec i { s with port := ⟨s.port.word, a⟩ } = .next t' ∧ t'.reply = t.reply)

/-- Whole machine: no step that performs an Observer's request changes the hardware (60_exceptions.md). -/
def Obligations.ObserversChangeNothing : Prop :=
  ∀ (s t : State) (r : Request) (rest : List Request), s.pending = r :: rest → r.agent = .observer →
    step s = .next t → sameHardware s t

/-- Every fault response is one the table of 60_exceptions.md R402 lists for its request. -/
def Obligations.RequestsRaiseOnlyTheirFaults : Prop :=
  ∀ (i : Instr) (s t : State) (c : FaultCode) (f : FaultInfo), exec i s = .next t →
    t.reply.resp = .fault c f →
    c ∈ faultsOf s.cfg.mode i ∨ (c = .accessDenied ∧ ownerOnly i = true ∧ s.port.agent = .observer)

/-! ## Frames -/

/-- The requests open to both agents read state only: nothing but the reply and, on a fault, the log changes;
asking again gives the same reply (20_memory.md). -/
def Obligations.ReadsHaveNoSideEffect : Prop :=
  ∀ (i : Instr) (s t : State), ownerOnly i = false → exec i s = .next t →
    sameControl s t ∧ noByte s t ∧ logFollowsReply s t ∧
      ∃ t', exec i t = .next t' ∧ t'.reply = t.reply

/-- Frame of VRAM_WR, ERAM_WR and ERAMF_WR: only the byte at the address the bank mux computes can change, and
none where the mux gives no byte. -/
def Obligations.BankedStoresChangeOneByte : Prop :=
  (∀ (b : BitVec 4) (a : BitVec 14) (d : Byte) (s t : State), exec (.vramWr b a d) s = .next t →
    sameControl s t ∧ logFollowsReply s t ∧
    (∀ i, vramIndex s.cfg b.toNat a.toNat = .ok (.byteAt i) → onlyByte s t .vram i) ∧
    ((∀ i, vramIndex s.cfg b.toNat a.toNat ≠ .ok (.byteAt i)) → noByte s t)) ∧
  (∀ (b : BitVec 4) (a : BitVec 14) (d : Byte) (s t : State), exec (.eramWr b a d) s = .next t →
    sameControl s t ∧ logFollowsReply s t ∧
    (∀ i, eramIndex s.cfg b.toNat a.toNat = .ok i → onlyByte s t .eram i) ∧
    ((∀ i, eramIndex s.cfg b.toNat a.toNat ≠ .ok i) → noByte s t)) ∧
  (∀ (a : BitVec 17) (d : Byte) (s t : State), exec (.eramfWr a d) s = .next t →
    sameControl s t ∧ logFollowsReply s t ∧
    (∀ i, flatIndex s.cfg a = .ok i → onlyByte s t .eram i) ∧
    ((∀ i, flatIndex s.cfg a ≠ .ok i) → noByte s t))

/-- Frame of OAM_WR, PAL_WR and IO_WR: only the byte at the index changes; IO_WR at P1 may also change the SGB
record and the draw count, and nothing else. -/
def Obligations.IndexedStoresChangeOneByte : Prop :=
  (∀ (x d : Byte) (s t : State), exec (.oamWr x d) s = .next t →
    sameControl s t ∧ logFollowsReply s t ∧ (∀ i, oamByteIndex x = .ok i → onlyByte s t .oam i) ∧
    ((∀ i, oamByteIndex x ≠ .ok i) → noByte s t)) ∧
  (∀ (p : PalTable) (x d : Byte) (s t : State), exec (.palWr p x d) s = .next t →
    sameControl s t ∧ logFollowsReply s t ∧ (∀ i, palByteIndex x = .ok i → onlyByte s t (palSpace p) i) ∧
    ((∀ i, palByteIndex x ≠ .ok i) → noByte s t)) ∧
  (∀ (x d : Byte) (s t : State), exec (.ioWr x d) s = .next t →
    onlyByte s t .io x.toNat ∧ logFollowsReply s t ∧ (x.toNat ≠ 0 → sameControl s t) ∧
    t.cfg = s.cfg ∧ t.sgbPresent = s.sgbPresent ∧ t.index = s.index ∧ t.pending = s.pending ∧
    t.port = s.port ∧ (s.sgbPresent = false → sameControl s t))

/-- Whole machine: each storage space is written only by its own request kinds, and the SGB state only by
SGB_INIT, SGB_END and a P1 write (20_memory.md). -/
def Obligations.EachSpaceHasItsOwnWriters : Prop :=
  ∀ (i : Instr) (s t : State), exec i s = .next t →
    (t.vram ≠ s.vram → ∃ b a d, i = .vramWr b a d) ∧ (t.oam ≠ s.oam → ∃ x d, i = .oamWr x d) ∧
    (t.eram ≠ s.eram → (∃ b a d, i = .eramWr b a d) ∨ ∃ a d, i = .eramfWr a d) ∧
    (t.io ≠ s.io → ∃ x d, i = .ioWr x d) ∧ (t.bgPal ≠ s.bgPal → ∃ x d, i = .palWr .bg x d) ∧
    (t.objPal ≠ s.objPal → ∃ x d, i = .palWr .obj x d) ∧
    (t.sgbPresent ≠ s.sgbPresent → i = .sgbInit ∨ i = .sgbEnd) ∧
    (t.sgb ≠ s.sgb → i = .sgbInit ∨ ∃ d, i = .ioWr 0 d)

/-! ## Memory ports -/

/-- R151: VRAM_RD and VRAM_WR through the bank mux, every branch. -/
def Obligations.VramRequestsFollowTheBankMux : Prop :=
  ∀ (s : State) (b : BitVec 4) (a : BitVec 14) (d : Byte),
    (1 < b.toNat → exec (.vramRd b a) s = .next (s.raise ⟨.bankOutOfRange, .num b.toNat⟩) ∧
      (s.port.agent = .owner → exec (.vramWr b a d) s = .next (s.raise ⟨.bankOutOfRange, .num b.toNat⟩))) ∧
    (b.toNat ≤ 1 → 0x1FFF < a.toNat → exec (.vramRd b a) s = .next (s.raise ⟨.addrOutOfRange, .num a.toNat⟩) ∧
      (s.port.agent = .owner → exec (.vramWr b a d) s = .next (s.raise ⟨.addrOutOfRange, .num a.toNat⟩))) ∧
    (b.toNat ≤ 1 → a.toNat ≤ 0x1FFF → b.toNat = 1 ∧ s.cfg.mode = .dmg →
      exec (.vramRd b a) s = .next (s.respond (.byte s.cfg.dmgBank1Read)) ∧
      (s.port.agent = .owner → exec (.vramWr b a d) s = .next (s.respond .none))) ∧
    (b.toNat ≤ 1 → a.toNat ≤ 0x1FFF → ¬(b.toNat = 1 ∧ s.cfg.mode = .dmg) →
      exec (.vramRd b a) s = .next (s.respond (.byte (s.memRead .vram (b.toNat * 0x2000 + a.toNat)))) ∧
      (s.port.agent = .owner → exec (.vramWr b a d) s =
        .next ((s.memWrite .vram (b.toNat * 0x2000 + a.toNat) d).respond .none)))

/-- OAM, I/O and palette ports: each index of the space is one plain byte (P1 apart), an index past its end is
AddrOutOfRange, and no I/O index is (40_vram_bank_mux.md). -/
def Obligations.IndexedPortsReachEveryByte : Prop :=
  ∀ (s : State) (x d : Byte),
    (x.toNat < 160 → exec (.oamRd x) s = .next (s.respond (.byte (s.memRead .oam x.toNat))) ∧
      (s.port.agent = .owner → exec (.oamWr x d) s = .next ((s.memWrite .oam x.toNat d).respond .none))) ∧
    (160 ≤ x.toNat → exec (.oamRd x) s = .next (s.raise ⟨.addrOutOfRange, .num x.toNat⟩) ∧
      (s.port.agent = .owner → exec (.oamWr x d) s = .next (s.raise ⟨.addrOutOfRange, .num x.toNat⟩))) ∧
    (x.toNat ≠ 0 → exec (.ioRd x) s = .next (s.respond (.byte (s.memRead .io x.toNat))) ∧
      (s.port.agent = .owner → exec (.ioWr x d) s = .next ((s.memWrite .io x.toNat d).respond .none))) ∧
    (x.toNat < 64 →
      exec (.palRd .bg x) s = .next (s.respond (.byte (s.memRead .bgPal x.toNat))) ∧
      exec (.palRd .obj x) s = .next (s.respond (.byte (s.memRead .objPal x.toNat))) ∧
      (s.port.agent = .owner → exec (.palWr .bg x d) s = .next ((s.memWrite .bgPal x.toNat d).respond .none) ∧
        exec (.palWr .obj x d) s = .next ((s.memWrite .objPal x.toNat d).respond .none))) ∧
    (64 ≤ x.toNat → ∀ p, exec (.palRd p x) s = .next (s.raise ⟨.addrOutOfRange, .num x.toNat⟩) ∧
      (s.port.agent = .owner → exec (.palWr p x d) s = .next (s.raise ⟨.addrOutOfRange, .num x.toNat⟩)))

/-- R160: ERAM_RD and ERAM_WR, every branch of the bank check. -/
def Obligations.EramRequestsFollowTheBankCheck : Prop :=
  ∀ (s : State) (b : BitVec 4) (a : BitVec 14) (d : Byte),
    (s.cfg.nEramBanks ≤ b.toNat → exec (.eramRd b a) s = .next (s.raise ⟨.bankOutOfRange, .num b.toNat⟩) ∧
      (s.port.agent = .owner → exec (.eramWr b a d) s = .next (s.raise ⟨.bankOutOfRange, .num b.toNat⟩))) ∧
    (b.toNat < s.cfg.nEramBanks → 0x1FFF < a.toNat →
      exec (.eramRd b a) s = .next (s.raise ⟨.addrOutOfRange, .num a.toNat⟩) ∧
      (s.port.agent = .owner → exec (.eramWr b a d) s = .next (s.raise ⟨.addrOutOfRange, .num a.toNat⟩))) ∧
    (b.toNat < s.cfg.nEramBanks → a.toNat ≤ 0x1FFF →
      exec (.eramRd b a) s = .next (s.respond (.byte (s.memRead .eram (b.toNat * 0x2000 + a.toNat)))) ∧
      (s.port.agent = .owner → exec (.eramWr b a d) s =
        .next ((s.memWrite .eram (b.toNat * 0x2000 + a.toNat) d).respond .none)))

/-- R165: the flat split is a bijection onto 16 banks of 0x2000 bytes; ERAMF_RD and ERAMF_WR reach byte `faddr` of
the linear array where the bank is present. -/
def Obligations.FlatAddressesSplitBijectively : Prop :=
  (∀ a : BitVec 17, flatBank a < 16 ∧ flatOffset a < 0x2000 ∧ flatBank a = a.toNat / 0x2000 ∧
    flatOffset a = a.toNat % 0x2000) ∧
  (∀ b o : Nat, b < 16 → o < 0x2000 → ∃ a : BitVec 17, flatBank a = b ∧ flatOffset a = o) ∧
  (∀ (s : State) (a : BitVec 17) (d : Byte),
    (a.toNat / 0x2000 < s.cfg.nEramBanks →
      exec (.eramfRd a) s = .next (s.respond (.byte (s.memRead .eram a.toNat))) ∧
      (s.port.agent = .owner →
        exec (.eramfWr a d) s = .next ((s.memWrite .eram a.toNat d).respond .none))) ∧
    (s.cfg.nEramBanks ≤ a.toNat / 0x2000 →
      exec (.eramfRd a) s = .next (s.raise ⟨.bankOutOfRange, .num (a.toNat / 0x2000)⟩) ∧
      (s.port.agent = .owner →
        exec (.eramfWr a d) s = .next (s.raise ⟨.bankOutOfRange, .num (a.toNat / 0x2000)⟩))))

/-- A write is seen by the very next read of its byte, by either name of the byte, except at P1 (IO index 0), whose
read is composed (20_memory.md, 70_reset_and_hazards.md). The write completed: it answered None and reached a byte
that exists. -/
def Obligations.NextReadSeesTheWrite : Prop :=
  ∀ (s t : State) (d : Byte),
    (∀ b a i, vramIndex s.cfg b.toNat a.toNat = .ok (.byteAt i) → exec (.vramWr b a d) s = .next t →
      t.reply.resp = .none → exec (.vramRd b a) t = .next (t.respond (.byte d))) ∧
    (∀ x, exec (.oamWr x d) s = .next t → t.reply.resp = .none →
      exec (.oamRd x) t = .next (t.respond (.byte d))) ∧
    (∀ b a f, f.toNat = b.toNat * 0x2000 + a.toNat → exec (.eramWr b a d) s = .next t →
      t.reply.resp = .none → exec (.eramRd b a) t = .next (t.respond (.byte d)) ∧
      exec (.eramfRd f) t = .next (t.respond (.byte d))) ∧
    (∀ b a f, f.toNat = b.toNat * 0x2000 + a.toNat → a.toNat ≤ 0x1FFF → exec (.eramfWr f d) s = .next t →
      t.reply.resp = .none → exec (.eramfRd f) t = .next (t.respond (.byte d)) ∧
      exec (.eramRd b a) t = .next (t.respond (.byte d))) ∧
    (∀ x, x.toNat ≠ 0 → exec (.ioWr x d) s = .next t → t.reply.resp = .none →
      exec (.ioRd x) t = .next (t.respond (.byte d))) ∧
    (∀ p x, exec (.palWr p x d) s = .next t → t.reply.resp = .none →
      exec (.palRd p x) t = .next (t.respond (.byte d)))

/-! ## Colour -/

/-- R202, R203: CGB colour is the little-endian word at `pal*8 + ci*2` of the palette RAM, each 5-bit channel
shifted left by 3. -/
def Obligations.CgbColorsExpandTheStoredWord : Prop :=
  ∀ (s : State) (spr : Bool) (pal : BitVec 3) (ci : U2), s.cfg.mode = .cgbEnabled →
    ∃ c, exec (.resolveColor spr pal ci) s = .next (s.respond (.rgb c)) ∧
      isExpansion ((s.memRead (if spr then .objPal else .bgPal) (pal.toNat * 8 + ci.toNat * 2)).toNat +
        256 * (s.memRead (if spr then .objPal else .bgPal) (pal.toNat * 8 + ci.toNat * 2 + 1)).toNat) c

/-- R204: GBCCompat colour is the compatibility table over the DMG register's shade, black beyond the
hardware-assigned palettes. -/
def Obligations.CompatColorsLayerOnTheShade : Prop :=
  ∀ (s : State) (pal : BitVec 3) (ci : U2), s.cfg.mode = .gbcCompat →
    (pal.toNat = 0 → exec (.resolveColor true pal ci) s = .next (s.respond
      (.rgb (compatSprColor s.cfg 0 (BitVec.ofNat 2 (shadeNumber s 0x48 ci)))))) ∧
    (pal.toNat = 1 → exec (.resolveColor true pal ci) s = .next (s.respond
      (.rgb (compatSprColor s.cfg 1 (BitVec.ofNat 2 (shadeNumber s 0x49 ci)))))) ∧
    (1 < pal.toNat → exec (.resolveColor true pal ci) s = .next (s.respond (.rgb ⟨0, 0, 0⟩))) ∧
    (pal.toNat = 0 → exec (.resolveColor false pal ci) s = .next (s.respond
      (.rgb (compatBgColor s.cfg (BitVec.ofNat 2 (shadeNumber s 0x47 ci)))))) ∧
    (0 < pal.toNat → exec (.resolveColor false pal ci) s = .next (s.respond (.rgb ⟨0, 0, 0⟩)))

/-- R201, R205: DMG colour is the grayscale triple of the register's shade; a sprite palette above 1 faults, a
background palette is ignored. -/
def Obligations.DmgColorsAreTheGrayOfTheShade : Prop :=
  ∀ (s : State) (pal : BitVec 3) (ci : U2), s.cfg.mode = .dmg →
    (pal.toNat ≤ 1 → ∃ c, exec (.resolveColor true pal ci) s = .next (s.respond (.rgb c)) ∧
      grayTriple (shadeNumber s (if pal.toNat = 0 then 0x48 else 0x49) ci) c) ∧
    (1 < pal.toNat →
      exec (.resolveColor true pal ci) s = .next (s.raise ⟨.paletteOutOfRange, .num pal.toNat⟩)) ∧
    (∃ c, exec (.resolveColor false pal ci) s = .next (s.respond (.rgb c)) ∧
      grayTriple (shadeNumber s 0x47 ci) c)

/-- RESOLVE_BG_COLOR always answers a colour: that of RESOLVE_COLOR for the background palette in bits 2:0 of the
attribute (41_palette_lut.md). -/
def Obligations.BackgroundColorUsesThePaletteBits : Prop :=
  ∀ (s : State) (attr : Byte) (ci : U2), ∃ c,
    exec (.resolveBgColor attr ci) s = .next (s.respond (.rgb c)) ∧
    exec (.resolveColor false (BitVec.ofNat 3 (attr.toNat % 8)) ci) s = .next (s.respond (.rgb c))

/-- R208: the output ranges of the two resolve requests. -/
def Obligations.ResolvedColorsStayInRange : Prop :=
  ∀ (i : Instr) (s t : State) (c : Rgb8),
    ((∃ spr pal ci, i = .resolveColor spr pal ci) ∨ ∃ attr ci, i = .resolveBgColor attr ci) →
    exec i s = .next t → t.reply.resp = .rgb c →
    (s.cfg.mode = .dmg → c = ⟨255, 255, 255⟩ ∨ c = ⟨168, 168, 168⟩ ∨ c = ⟨80, 80, 80⟩ ∨ c = ⟨0, 0, 0⟩) ∧
    (s.cfg.mode = .cgbEnabled →
      ∀ v ∈ [c.r, c.g, c.b], v.toNat % 8 = 0 ∧ v.toNat ≤ 248)

/-- RESOLVE_SGB_COLOR: the palette the applied grid names, the shade's word expanded; CoordOutOfRange off the
20 x 18 grid (41_palette_lut.md). -/
def Obligations.SgbColorReadsTheAppliedGrid : Prop :=
  ∀ (s : State) (tx ty : BitVec 5) (sh : U2), s.sgbPresent = true →
    (tx.toNat < 20 → ty.toNat < 18 → ∃ c,
      exec (.resolveSgbColor tx ty sh) s = .next (s.respond (.rgb c)) ∧
      isExpansion (tabGet s.sgb.palette (tabGet s.sgb.curAtf ty.toNat tx.toNat).toNat sh.toNat).toNat c) ∧
    (20 ≤ tx.toNat ∨ 18 ≤ ty.toNat →
      exec (.resolveSgbColor tx ty sh) s = .next (s.raise ⟨.coordOutOfRange, .pair tx.toNat ty.toNat⟩))

/-- Outside CGBEnabled mode no request but PAL_RD sees the palette RAMs (41_palette_lut.md,
70_reset_and_hazards.md). -/
def Obligations.PaletteRamsUnseenOutsideCgb : Prop :=
  ∀ (i : Instr) (s t : State) (m n : Memory), s.cfg.mode ≠ .cgbEnabled → (∀ p x, i ≠ .palRd p x) →
    exec i s = .next t → ∃ t', exec i { s with bgPal := m, objPal := n } = .next t' ∧ t'.reply = t.reply

/-! ## Tiles and sprites -/

/-- R240, R241: DECODE_TILE_ROW, pixel by pixel; TileOutOfRange from 384 on. -/
def Obligations.TileRowsDecodeTwoPlanes : Prop :=
  ∀ (s : State) (b : BitVec 1) (tile : BitVec 9) (row : BitVec 3) (h v : Bool),
    (tile.toNat < 384 → ∃ p : TileRow,
      exec (.decodeTileRow b tile row h v) s = .next (s.respond (.row p)) ∧
      ∀ (x : Nat) (hx : x < 8), p[x].toNat =
        2 * bitOf (fetchedByte s b.toNat
              (tile.toNat * 16 + 2 * (if v then 7 - row.toNat else row.toNat) + 1)) (if h then x else 7 - x) +
        bitOf (fetchedByte s b.toNat
              (tile.toNat * 16 + 2 * (if v then 7 - row.toNat else row.toNat))) (if h then x else 7 - x)) ∧
    (384 ≤ tile.toNat →
      exec (.decodeTileRow b tile row h v) s = .next (s.raise ⟨.tileOutOfRange, .num tile.toNat⟩))

/-- R244: H-flip mirrors a row, V-flip takes the mirrored row, and the Y-flip bit of an entry reverses its grid
across the full sprite height, so each flip twice is the identity. -/
def Obligations.FlipsMirrorRowsAndGrids : Prop :=
  (∀ (s : State) (b : BitVec 1) (tile : BitVec 9) (row : BitVec 3) (v h : Bool),
    (tile.toNat < 384 → ∃ p q : TileRow,
      exec (.decodeTileRow b tile row false v) s = .next (s.respond (.row p)) ∧
      exec (.decodeTileRow b tile row true v) s = .next (s.respond (.row q)) ∧
      ∀ (x : Nat) (hx : x < 8), q[x] = p[7 - x]) ∧
    exec (.decodeTileRow b tile row h true) s =
      exec (.decodeTileRow b tile (BitVec.ofNat 3 (7 - row.toNat)) h false) s) ∧
  (∀ (s : State) (obj : BitVec 6), obj.toNat < 40 →
    ∃ (H : Nat) (g : List TileRow), exec (.decodeSprite obj) s = .next (s.respond (.grid H g)) ∧
      exec (.decodeSprite obj)
        (s.memWrite .oam (4 * obj.toNat + 3) (s.memRead .oam (4 * obj.toNat + 3) ^^^ 0x40)) =
      .next ((s.memWrite .oam (4 * obj.toNat + 3) (s.memRead .oam (4 * obj.toNat + 3) ^^^ 0x40)).respond
        (.grid H g.reverse)))

/-- R270, R271, R273: DECODE_SPRITE, pixel by pixel, from the OAM bytes, LCDC bit 2 and the mode;
OamIndexOutOfRange from 40 on. -/
def Obligations.SpriteGridsDecodeTheEntry : Prop :=
  ∀ (s : State) (obj : BitVec 6),
    (obj.toNat < 40 → ∃ g : List TileRow,
      let H := if bitOf (s.memRead .io 0x40) 2 = 1 then 16 else 8
      let tile := (s.memRead .oam (4 * obj.toNat + 2)).toNat
      let info := s.memRead .oam (4 * obj.toNat + 3)
      let tt := if H = 16 then tile - tile % 2 else tile
      let bank := if s.cfg.mode = .cgbEnabled then bitOf info 3 else 0
      exec (.decodeSprite obj) s = .next (s.respond (.grid H g)) ∧ g.length = H ∧
      ∀ r, r < H → ∃ p : TileRow, g[r]? = some p ∧
        ∀ (x : Nat) (hx : x < 8),
          let off := tt * 16 + 2 * (if bitOf info 6 = 1 then H - r - 1 else r)
          let k := if bitOf info 5 = 1 then x else 7 - x
          p[x].toNat = 2 * bitOf (fetchedByte s bank (off + 1)) k + bitOf (fetchedByte s bank off) k) ∧
    (40 ≤ obj.toNat → exec (.decodeSprite obj) s = .next (s.raise ⟨.oamIndexOutOfRange, .num obj.toNat⟩))

/-- SPRITE_VISIBLE: the source's bounds on X and on Y by height (43_sprite_rasterizer.md). -/
def Obligations.SpriteVisibilityHasTheSourceBounds : Prop :=
  ∀ (s : State) (obj : BitVec 6),
    (obj.toNat < 40 → ∃ v : Bool,
      let Y := (s.memRead .oam (4 * obj.toNat)).toNat
      let X := (s.memRead .oam (4 * obj.toNat + 1)).toNat
      exec (.spriteVisible obj) s = .next (s.respond (.bool v)) ∧
      (v = true ↔ 0 < X ∧ X < 168 ∧ Y < 160 ∧
        (bitOf (s.memRead .io 0x40) 2 = 1 → 0 < Y) ∧ (bitOf (s.memRead .io 0x40) 2 = 0 → 8 < Y))) ∧
    (40 ≤ obj.toNat → exec (.spriteVisible obj) s = .next (s.raise ⟨.oamIndexOutOfRange, .num obj.toNat⟩))

/-- RASTER_SPRITE: 8 x H entries in row-major order; index 0 is skipped or written transparent, every other index
has the colour RESOLVE_COLOR gives it for the sprite's palette (43_sprite_rasterizer.md, 41_palette_lut.md). -/
def Obligations.RasterListsColourTheGrid : Prop :=
  ∀ (s : State) (obj : BitVec 6),
    (obj.toNat < 40 → ∃ (H : Nat) (g : List TileRow) (l : List PixelWrite),
      let info := (s.memRead .oam (4 * obj.toNat + 3)).toNat
      let pal := if s.cfg.mode = .cgbEnabled then info % 8 else info / 16 % 2
      exec (.decodeSprite obj) s = .next (s.respond (.grid H g)) ∧
      exec (.rasterSprite obj) s = .next (s.respond (.pixels l)) ∧ l.length = 8 * H ∧
      ∀ k, k < 8 * H → ∃ (px : PixelWrite) (p : TileRow), l[k]? = some px ∧ px.x = k % 8 ∧ px.y = k / 8 ∧
        g[k / 8]? = some p ∧
        ∀ hx : k % 8 < 8,
          (p[k % 8] = 0 → (s.cfg.sinkFormat = .rgb → px.action = .skip) ∧
            (s.cfg.sinkFormat = .rgba → px.action = .writeRgba ⟨0, 0, 0⟩ 0)) ∧
          (p[k % 8] ≠ 0 → ∃ c,
            exec (.resolveColor true (BitVec.ofNat 3 pal) p[k % 8]) s = .next (s.respond (.rgb c)) ∧
            (s.cfg.sinkFormat = .rgb → px.action = .write c) ∧
            (s.cfg.sinkFormat = .rgba → px.action = .writeRgba c 255))) ∧
    (40 ≤ obj.toNat → exec (.rasterSprite obj) s = .next (s.raise ⟨.oamIndexOutOfRange, .num obj.toNat⟩))

/-- COMPOSE_PIXEL: when the sprite pixel wins (43_sprite_rasterizer.md). -/
def Obligations.ComposeSelectsTheSpriteExactlyWhen : Prop :=
  ∀ (s : State) (bgci : U2) (bgpri : Bool) (objci : U2) (objpri : Bool), ∃ l,
    exec (.composePixel bgci bgpri objci objpri) s = .next (s.respond (.layer l)) ∧
    (l = .obj ↔ objci ≠ 0 ∧
      ((s.cfg.mode = .cgbEnabled ∧ bitOf (s.memRead .io 0x40) 0 = 0) ∨ bgci = 0 ∨
        (¬(s.cfg.mode = .cgbEnabled ∧ bgpri = true) ∧ objpri = false)))

/-- In DMG mode bank 1 of VRAM is not state: no reply depends on a byte above bank 0 and no request changes one
(10_state.md R34). -/
def Obligations.DmgNeverTouchesBankOne : Prop :=
  ∀ (i : Instr) (s t : State) (m : Memory), s.cfg.mode = .dmg →
    (∀ a, a < 0x2000 → memGet m a = s.memRead .vram a) → exec i s = .next t →
    (∃ t', exec i { s with vram := m } = .next t' ∧ t'.reply = t.reply) ∧
    ∀ a, 0x2000 ≤ a → t.memRead .vram a = s.memRead .vram a

/-! ## The SGB engine -/

/-- R431: SGB_INIT by the Owner gives every SGB field its listed value and changes nothing else. -/
def Obligations.SgbInitSetsEveryField : Prop :=
  ∀ s : State, s.port.agent = .owner → ∃ t, exec .sgbInit s = .next t ∧
    t.sgbPresent = true ∧ t.sgb.sending = false ∧ t.sgb.waitReset = false ∧ t.sgb.currbit = 0 ∧
    t.sgb.currbyte = 0 ∧ t.sgb.currpacket = 0 ∧ t.sgb.numpackets = 0 ∧ t.sgb.prevSel = 3 ∧
    (∀ p b, p < 7 → b < 16 → tabGet t.sgb.data p b = 0) ∧
    (∀ p, p < 4 → tabGet t.sgb.palette p 0 = 0x7FFF ∧ tabGet t.sgb.palette p 1 = 0x56B5 ∧
      tabGet t.sgb.palette p 2 = 0x294A ∧ tabGet t.sgb.palette p 3 = 0) ∧
    (∀ p c, p < 8 → c < 16 → 4 ≤ p ∨ 4 ≤ c → tabGet t.sgb.palette p c = 0) ∧
    (∀ n c, n < 512 → c < 4 → tabGet t.sgb.snesPalette n c = 0) ∧
    (∀ n ty tx, n < 45 → ty < 18 → tx < 20 → atfCell t.sgb n ty tx = 0) ∧
    (∀ ty tx, ty < 18 → tx < 20 → tabGet t.sgb.curAtf ty tx = 0) ∧
    t.sgb.freezeScreen = 0 ∧ t.sgb.multiplayer = 0 ∧ t.sgb.readJoypad = false ∧ t.sgb.currentJoypad = 0 ∧
    t.sgb.attraction = false ∧ t.sgb.speedTest = false ∧
    t.reply = ⟨.none, []⟩ ∧ noByte s t ∧ t.cfg = s.cfg ∧ t.faultLog = s.faultLog ∧ t.draws = s.draws ∧
    t.index = s.index ∧ t.pending = s.pending ∧ t.port = s.port

/-- R432: SGB_END by the Owner clears sgb_present and changes no other field. -/
def Obligations.SgbEndClearsOnlyThePresence : Prop :=
  ∀ s : State, s.port.agent = .owner →
    exec .sgbEnd s = .next (State.respond { s with sgbPresent := false } .none)

/-- SGB_STATUS, SGB_PAL_RD, SGB_SNESPAL_RD with an engine present (44_sgb_packet_engine.md). -/
def Obligations.SgbScalarAndPaletteReads : Prop :=
  ∀ s : State, s.sgbPresent = true →
    exec .sgbStatus s = .next (s.respond (.status ⟨s.sgb.sending, s.sgb.waitReset, s.sgb.currbit,
      s.sgb.currbyte, s.sgb.currpacket, s.sgb.numpackets, s.sgb.prevSel, s.sgb.freezeScreen,
      s.sgb.multiplayer, s.sgb.readJoypad, s.sgb.currentJoypad, s.sgb.attraction, s.sgb.speedTest⟩)) ∧
    (∀ p c, exec (.sgbPalRd p c) s = .next (s.respond (.word (tabGet s.sgb.palette p.toNat c.toNat)))) ∧
    (∀ n c, exec (.sgbSnespalRd n c) s = .next (s.respond (.word (tabGet s.sgb.snesPalette n.toNat c.toNat))))

/-- SGB_ATF_RD, SGB_CURATF_RD, SGB_PKT_RD with an engine present: the cell, or CoordOutOfRange with the operands
(44_sgb_packet_engine.md). -/
def Obligations.SgbGridAndPacketReads : Prop :=
  ∀ (s : State) (tx ty : BitVec 5), s.sgbPresent = true →
    (∀ n : BitVec 6, (n.toNat < 45 ∧ tx.toNat < 20 ∧ ty.toNat < 18 →
        exec (.sgbAtfRd n tx ty) s = .next (s.respond (.u2 (atfCell s.sgb n.toNat ty.toNat tx.toNat)))) ∧
      (¬(n.toNat < 45 ∧ tx.toNat < 20 ∧ ty.toNat < 18) →
        exec (.sgbAtfRd n tx ty) s =
          .next (s.raise ⟨.coordOutOfRange, .triple n.toNat tx.toNat ty.toNat⟩))) ∧
    (tx.toNat < 20 ∧ ty.toNat < 18 →
      exec (.sgbCuratfRd tx ty) s = .next (s.respond (.u2 (tabGet s.sgb.curAtf ty.toNat tx.toNat)))) ∧
    (¬(tx.toNat < 20 ∧ ty.toNat < 18) →
      exec (.sgbCuratfRd tx ty) s = .next (s.raise ⟨.coordOutOfRange, .pair tx.toNat ty.toNat⟩)) ∧
    (∀ (p : BitVec 3) (b : BitVec 4), (p.toNat < 7 →
        exec (.sgbPktRd p b) s = .next (s.respond (.byte (tabGet s.sgb.data p.toNat b.toNat)))) ∧
      (p.toNat = 7 → exec (.sgbPktRd p b) s = .next (s.raise ⟨.coordOutOfRange, .pair p.toNat b.toNat⟩)))

/-- R313: while the engine is absent every SGB read and RESOLVE_SGB_COLOR raises SgbAbsent, a P1 write only stores,
a P1 read passes through to joypad 0, and no step's result depends on an SGB field. -/
def Obligations.AbsentEngineIsUnobservable : Prop :=
  (∀ s : State, s.sgbPresent = false →
    (∀ i : Instr, (i = .sgbStatus ∨ (∃ p c, i = .sgbPalRd p c) ∨ (∃ n c, i = .sgbSnespalRd n c) ∨
        (∃ n x y, i = .sgbAtfRd n x y) ∨ (∃ x y, i = .sgbCuratfRd x y) ∨ (∃ p b, i = .sgbPktRd p b) ∨
        ∃ x y h, i = .resolveSgbColor x y h) →
      exec i s = .next (s.raise ⟨.sgbAbsent, .num 0⟩)) ∧
    (∀ d, s.port.agent = .owner → exec (.ioWr 0 d) s = .next ((s.memWrite .io 0 d).respond .none)) ∧
    ∃ v : Byte, exec (.ioRd 0) s = .next (s.respond (.byte v)) ∧
      v.toNat = 192 + 16 * ((s.memRead .io 0).toNat / 16 % 4) +
        (joypadLines s.cfg 0 ((s.memRead .io 0).toNat / 16 % 4)).toNat) ∧
  (∀ (s t : State) (g : SgbState), s.sgbPresent = false → step s = .next t →
    ∃ t', step { s with sgb := g } = .next t' ∧ t'.reply = t.reply ∧ t'.sgbPresent = t.sgbPresent ∧
      (t.sgbPresent = true → t'.sgb = t.sgb) ∧ t' = { t with sgb := t'.sgb })

/-- R175, R338: a P1 write by the Owner with an engine present is one engine step on bits 5:4, line step then
multiplayer step; with none it only stores the byte. The byte is stored whole, the response carries the events,
and after the line step prev_sel is the line value written. -/
def Obligations.P1WriteIsOneEngineStep : Prop :=
  (∀ (s : State) (d : Byte), s.port.agent = .owner → s.sgbPresent = true →
    let r := engineWrite s.cfg (BitVec.ofNat 2 (d.toNat / 16 % 4)) ⟨s.sgb, s.draws, []⟩
    exec (.ioWr 0 d) s =
      .next (((s.memWrite .io 0 d).withSgb r.sgb r.draws).respondWith .none r.events)) ∧
  (∀ (s : State) (d : Byte), s.port.agent = .owner → s.sgbPresent = false →
    exec (.ioWr 0 d) s = .next ((s.memWrite .io 0 d).respond .none)) ∧
  (∀ (c : Config) (sel : U2) (r : SgbRun),
    engineWrite c sel r =
      { lineStep c sel r with sgb := multiplayerStep sel (lineStep c sel r).sgb } ∧
    (engineWrite c sel r).sgb.prevSel = sel)

/-- R330: the reset pulse in each of the engine's four situations; numpackets, the buffer and the tables stay, no
event. -/
def Obligations.ResetPulseByEngineState : Prop :=
  ∀ (c : Config) (g : SgbState) (n : Nat),
    (g.sending = false → lineStep c 0b00 ⟨g, n, []⟩ = ⟨{ g with
      sending := true
      waitReset := false
      currbit := 0
      currbyte := 0
      currpacket := 0
      prevSel := 0 }, n, []⟩) ∧
    (g.sending = true → g.waitReset = true →
      lineStep c 0b00 ⟨g, n, []⟩ = ⟨{ g with waitReset := false, prevSel := 0 }, n, []⟩) ∧
    (g.sending = true → g.waitReset = false → g.currbit = 0 ∧ g.currbyte = 0 →
      lineStep c 0b00 ⟨g, n, []⟩ = ⟨{ g with prevSel := 0 }, n, []⟩) ∧
    (g.sending = true → g.waitReset = false → ¬(g.currbit = 0 ∧ g.currbyte = 0) →
      lineStep c 0b00 ⟨g, n, []⟩ = ⟨{ g with
        sending := false
        currbit := 0
        currbyte := 0
        currpacket := 0
        prevSel := 0 }, n, []⟩)

/-- R331, R337: a line value that is no reset pulse and takes no bit changes nothing but prev_sel. -/
def Obligations.OtherLineEventsChangeOnlyPrevSel : Prop :=
  ∀ (c : Config) (g : SgbState) (n : Nat) (sel : U2), sel ≠ 0b00 →
    ¬((sel = 0b01 ∨ sel = 0b10) ∧ g.prevSel = 0b11 ∧ g.sending = true ∧ g.waitReset = false) →
    lineStep c sel ⟨g, n, []⟩ = ⟨{ g with prevSel := sel }, n, []⟩

/-- R332, R333: a bit taken that does not complete a packet is shifted into the byte at the cursors from the top;
the eighth bit moves the byte cursor. After eight bits taken from a byte's start (of any byte, the last of a packet
too) the byte is those bits, the first one lowest, whatever it held before. -/
def Obligations.BitsShiftIntoTheByteAtTheCursors : Prop :=
  (∀ (c : Config) (g : SgbState) (n : Nat) (sel : U2), g.Inv → (sel = 0b01 ∨ sel = 0b10) →
    g.prevSel = 0b11 → g.sending = true → g.waitReset = false → ¬(g.currbit = 7 ∧ g.currbyte = 15) →
    lineStep c sel ⟨g, n, []⟩ = ⟨{ g with
      data := shiftedBuffer g sel
      currbit := (g.currbit + 1) % 8
      currbyte := g.currbyte + (g.currbit + 1) / 8
      prevSel := sel }, n, []⟩ ∧
    (tabGet (shiftedBuffer g sel) g.currpacket g.currbyte).toNat =
      (tabGet g.data g.currpacket g.currbyte).toNat / 2 + (if sel = 0b01 then 128 else 0) ∧
    ∀ p b, ¬(p = g.currpacket ∧ b = g.currbyte) → tabGet (shiftedBuffer g sel) p b = tabGet g.data p b) ∧
  (∀ (c : Config) (g : SgbState) (n : Nat) (bits : List Bool), g.Inv → g.prevSel = 0b11 → g.sending = true →
    g.waitReset = false → g.currbit = 0 → bits.length = 8 →
    ∀ k, k < 8 →
      bitOf (tabGet (engineWrites c (bits.flatMap bitWrites) ⟨g, n, []⟩).sgb.data g.currpacket g.currbyte) k =
        if bits[k]? = some true then 1 else 0)

/-- R334, R335: the bit that completes a packet. The cursors advance, the packet count is read from the header
when packet 0 completes, and the engine waits for the next packet unless it was the last. -/
def Obligations.PacketCompletionCountsAndWaits : Prop :=
  ∀ (c : Config) (g : SgbState) (n : Nat) (sel : U2), g.Inv → (sel = 0b01 ∨ sel = 0b10) →
    g.prevSel = 0b11 → g.sending = true → g.waitReset = false → g.currbit = 7 → g.currbyte = 15 →
    g.currpacket + 1 ≠ packetsOf c g →
    lineStep c sel ⟨g, n, []⟩ = ⟨{ nextPacket c g sel with waitReset := true, prevSel := sel }, n, []⟩

/-- R336: the bit that completes the last packet emits one event with the code, the count and the bytes of the
buffer, applies the command, and leaves the engine Idle with currpacket at the count; the draw count,
the model's own (log 8), advances only for the commands that use a free value. -/
def Obligations.LastPacketEmitsAndApplies : Prop :=
  ∀ (c : Config) (g : SgbState) (n : Nat) (sel : U2), g.Inv → (sel = 0b01 ∨ sel = 0b10) →
    g.prevSel = 0b11 → g.sending = true → g.waitReset = false → g.currbit = 7 → g.currbyte = 15 →
    g.currpacket + 1 = packetsOf c g →
    let code := BitVec.ofNat 5 ((tabGet g.data 0 0).toNat / 8)
    let r := lineStep c sel ⟨g, n, []⟩
    r.sgb = { applyCommand (sgbCmdOf code) n (nextPacket c g sel) with
      sending := false
      waitReset := false
      prevSel := sel } ∧
    r.sgb.currpacket = packetsOf c g ∧ r.sgb.currbit = 0 ∧ r.sgb.currbyte = 0 ∧
    r.draws = (if code.toNat ∈ [0x04, 0x05, 0x06, 0x07, 0x0B, 0x14, 0x15] then n + 1 else n) ∧
    ∃ e, r.events = [e] ∧ e.cmd = code ∧ e.npk = packetsOf c g ∧ e.bytes.length = 16 * packetsOf c g ∧
      ∀ p b, p < packetsOf c g → b < 16 → e.bytes[16 * p + b]? = some (tabGet (shiftedBuffer g sel) p b)

/-- R343: PAL01, PAL23, PAL03, PAL12 by their codes, each colour low byte first (R342); every field but the palettes
stays. -/
def Obligations.PaletteCommandsWriteTwoPalettes : Prop :=
  ∀ (g : SgbState) (n : Nat) (code : BitVec 5) (a b : Nat),
    (code, a, b) ∈ [((0x00 : BitVec 5), 0, 1), (0x01, 2, 3), (0x02, 0, 3), (0x03, 1, 2)] →
    let t := applyCommand (sgbCmdOf code) n g;
    (∀ k, k < 4 → (tabGet t.palette k 0).toNat = packetWord g 1) ∧
    (tabGet t.palette a 1).toNat = packetWord g 3 ∧ (tabGet t.palette a 2).toNat = packetWord g 5 ∧
    (tabGet t.palette a 3).toNat = packetWord g 7 ∧ (tabGet t.palette b 1).toNat = packetWord g 9 ∧
    (tabGet t.palette b 2).toNat = packetWord g 11 ∧ (tabGet t.palette b 3).toNat = packetWord g 13 ∧
    (∀ k c, k < 8 → c < 16 → ¬(k < 4 ∧ c = 0) → ¬((k = a ∨ k = b) ∧ c < 4) →
      tabGet t.palette k c = tabGet g.palette k c) ∧
    t = { g with palette := t.palette }

/-- R344: PAL_SET, code 0x0A: four palettes selected by numbers given low byte first (R342), colour 0 shared, the
attribute file applied where bit 7 asks for one below 45, the mask cancelled where bit 6 is set. -/
def Obligations.PalSetSelectsFourPalettes : Prop :=
  ∀ (g : SgbState) (n : Nat),
    let t := applyCommand (sgbCmdOf 0x0A) n g
    let flags := (tabGet g.data 0 9).toNat;
    (∀ k, k < 4 → tabGet t.palette k 0 = tabGet g.snesPalette (packetWord g 1 % 512) 0) ∧
    (∀ k c, k < 4 → 1 ≤ c → c < 4 →
      tabGet t.palette k c = tabGet g.snesPalette (packetWord g (1 + 2 * k) % 512) c) ∧
    (∀ k c, k < 8 → c < 16 → 4 ≤ k ∨ 4 ≤ c → tabGet t.palette k c = tabGet g.palette k c) ∧
    (flags / 128 = 1 → flags % 64 < 45 →
      ∀ ty tx, tabGet t.curAtf ty tx = atfCell g (flags % 64) ty tx) ∧
    (¬(flags / 128 = 1 ∧ flags % 64 < 45) → t.curAtf = g.curAtf) ∧
    t.freezeScreen = (if flags / 64 % 2 = 1 then 0 else g.freezeScreen) ∧
    t = { g with palette := t.palette, curAtf := t.curAtf, freezeScreen := t.freezeScreen }

/-- R345, R346, R352: PAL_TRN, ATTR_TRN and PCT_TRN lay out the transfer block of their draw. The block is a free
value (log 8) and the draw is any, so this holds for every content. -/
def Obligations.TransferCommandsLayOutTheBlock : Prop :=
  ∀ (g : SgbState) (n : Nat),
    (let t := applyCommand (sgbCmdOf 0x0B) n g;
      (∀ k c, k < 512 → c < 4 → (tabGet t.snesPalette k c).toNat =
        (Config.trnBlock n (8 * k + 2 * c)).toNat + 256 * (Config.trnBlock n (8 * k + 2 * c + 1)).toNat) ∧
      t = { g with snesPalette := t.snesPalette }) ∧
    (let t := applyCommand (sgbCmdOf 0x15) n g;
      (∀ k ty tx, k < 45 → ty < 18 → tx < 20 → (atfCell t k ty tx).toNat =
        (Config.trnBlock n (90 * k + 5 * ty + tx / 4)).toNat / 2 ^ (6 - 2 * (tx % 4)) % 4) ∧
      t = { g with atfList := t.atfList }) ∧
    (let t := applyCommand (sgbCmdOf 0x14) n g;
      (∀ k c, k < 4 → c < 16 → (tabGet t.palette (4 + k) c).toNat =
        (Config.trnBlock n (0x800 + 32 * k + 2 * c)).toNat +
          256 * (Config.trnBlock n (0x800 + 32 * k + 2 * c + 1)).toNat) ∧
      (∀ k c, k < 4 → c < 16 → tabGet t.palette k c = tabGet g.palette k c) ∧
      t = { g with palette := t.palette })

/-- R347 to R351: ATTR_SET, MASK_EN, MLT_REQ, ATRC_EN, TEST_EN by their codes and byte 1. -/
def Obligations.ModeCommandsSetTheirFields : Prop :=
  ∀ (g : SgbState) (n : Nat),
    let d := (tabGet g.data 0 1).toNat;
    (let t := applyCommand (sgbCmdOf 0x16) n g;
      (d % 64 < 45 → ∀ ty tx, tabGet t.curAtf ty tx = atfCell g (d % 64) ty tx) ∧
      (45 ≤ d % 64 → t.curAtf = g.curAtf) ∧
      t.freezeScreen = (if d / 64 % 2 = 1 then 0 else g.freezeScreen) ∧
      t = { g with curAtf := t.curAtf, freezeScreen := t.freezeScreen }) ∧
    applyCommand (sgbCmdOf 0x17) n g = { g with freezeScreen := BitVec.ofNat 2 (d % 4) } ∧
    applyCommand (sgbCmdOf 0x11) n g =
      { g with multiplayer := BitVec.ofNat 2 (d % 4), currentJoypad := 0, readJoypad := false } ∧
    applyCommand (sgbCmdOf 0x0C) n g = { g with attraction := decide (d % 2 = 0) } ∧
    applyCommand (sgbCmdOf 0x0D) n g = { g with speedTest := decide (d % 2 = 1) }

/-- R359, R360: the region edits put the free grid of their draw (log 8) on the screen and change nothing else;
every other command changes no state. -/
def Obligations.RegionEditsAreFreeAndOthersInert : Prop :=
  ∀ (g : SgbState) (n : Nat) (code : BitVec 5),
    (4 ≤ code.toNat ∧ code.toNat ≤ 7 →
      let t := applyCommand (sgbCmdOf code) n g;
      (∀ ty tx, ty < 18 → tx < 20 → tabGet t.curAtf ty tx = Config.attrEdit n ty tx) ∧
      t = { g with curAtf := t.curAtf }) ∧
    (code.toNat ∈ [0x08, 0x09, 0x0E, 0x0F, 0x10, 0x12, 0x13, 0x18] ∨ 0x19 ≤ code.toNat →
      applyCommand (sgbCmdOf code) n g = g)

/-- Events come only from a P1 write by the Owner with an engine present, one at most
(44_sgb_packet_engine.md R341). -/
def Obligations.OnlyP1WritesEmitEvents : Prop :=
  ∀ (i : Instr) (s t : State), exec i s = .next t → t.reply.events ≠ [] →
    (∃ d, i = .ioWr 0 d) ∧ s.port.agent = .owner ∧ s.sgbPresent = true ∧ t.reply.events.length = 1

/-- R365: the multiplayer step on the record the line step left. -/
def Obligations.MultiplayerStepAdvancesOnIdle : Prop :=
  ∀ (c : Config) (sel : U2) (r : SgbRun),
    let g := (lineStep c sel r).sgb
    let t := (engineWrite c sel r).sgb;
    (g.multiplayer ≠ 1 ∧ g.multiplayer ≠ 3 → t = g) ∧
    (g.multiplayer = 1 ∨ g.multiplayer = 3 → sel ≠ 3 → t = { g with readJoypad := true }) ∧
    (g.multiplayer = 1 ∨ g.multiplayer = 3 → sel = 3 → g.readJoypad = false → t = g) ∧
    (g.multiplayer = 1 → sel = 3 → g.readJoypad = true →
      t = { g with readJoypad := false, currentJoypad := BitVec.ofNat 2 ((g.currentJoypad.toNat + 1) % 2) }) ∧
    (g.multiplayer = 3 → sel = 3 → g.readJoypad = true →
      t = { g with readJoypad := false, currentJoypad := BitVec.ofNat 2 ((g.currentJoypad.toNat + 1) % 4) })

/-- R370: the composed P1 read, with and without multiplayer; it changes no state. -/
def Obligations.P1ReadIsComposed : Prop :=
  ∀ s : State, ∃ v : Byte, exec (.ioRd 0) s = .next (s.respond (.byte v)) ∧
    let sel := (s.memRead .io 0).toNat / 16 % 4
    let multi := s.sgbPresent = true ∧ (s.sgb.multiplayer = 1 ∨ s.sgb.multiplayer = 3);
    (multi → sel = 3 → v.toNat = 192 + 16 * sel + (15 - s.sgb.currentJoypad.toNat)) ∧
    (multi → sel ≠ 3 →
      v.toNat = 192 + 16 * sel + (joypadLines s.cfg s.sgb.currentJoypad.toNat sel).toNat) ∧
    (¬multi → v.toNat = 192 + 16 * sel + (joypadLines s.cfg 0 sel).toNat)

/-- The headline (44_sgb_packet_engine.md R390, with SGB_PACKET of 30_encoding.md R127): from Idle, correctly
sequenced packets of 16 bytes, as many as the first header asks for. After each of them the byte cursor is back at
0 and the packet cursor one further; before the last the engine waits for the next packet and has emitted nothing;
after it the engine is Idle and has emitted one event that holds the command code and every byte sent. -/
def Obligations.CompleteTransfersReturnToIdle : Prop :=
  ∀ (c : Config) (g : SgbState) (n : Nat) (ds : List (List Byte)) (h : Byte) (tail : List Byte)
    (rest : List (List Byte)), c.wf = true → g.Inv → g.sending = false → (∀ d ∈ ds, d.length = 16) →
    ds = (h :: tail) :: rest →
    ds.length = (if h.toNat % 8 ≠ 0 then h.toNat % 8 else c.sgbLen0Packets) →
    ∀ k, 1 ≤ k → k ≤ ds.length →
      let r := engineWrites c ((ds.take k).flatMap fun d => pulseWrites ++ packetBits d ++ bitWrites false)
        ⟨g, n, []⟩
      r.sgb.currbit = 0 ∧ r.sgb.currbyte = 0 ∧ r.sgb.currpacket = k ∧ r.sgb.numpackets = ds.length ∧
      (k < ds.length → r.sgb.sending = true ∧ r.sgb.waitReset = true ∧ r.events = []) ∧
      (k = ds.length → r.sgb.sending = false ∧ r.sgb.waitReset = false ∧
        r.events = [⟨BitVec.ofNat 5 (h.toNat / 8), ds.length, ds.flatten⟩])

/-- R170: the camera address helper; every slot's address fits the 17-bit flat address. -/
def Obligations.CameraSlotsFitTheFlatAddress : Prop :=
  (∀ kind, cameraAddr kind (-1) = 0x0100) ∧
  ∀ k : Nat, k < 30 → cameraAddr .photo k = 0x2000 + k * 0x1000 ∧
    cameraAddr .thumb k = 0x2E00 + k * 0x1000 ∧ cameraAddr .thumb k < 2 ^ 17 ∧ cameraAddr .photo k < 2 ^ 17
end

