-- ==== Sys2Proof/Laws/Encoding.lean ====
section
/-! SUPPORT. Bits of a request word: what a placed field reads as, bit by bit. -/

namespace Sys2Proof

/-- Bit `i` of a field placed at `lo`. -/
theorem getLsbD_place {n : Nat} (lo : Nat) (v : BitVec n) (i : Nat) :
    (place lo v).getLsbD i = (decide (i < 32) && decide (lo ≤ i) && v.getLsbD (i - lo)) := by
  unfold place
  by_cases h : i < 32 <;> by_cases h2 : lo ≤ i <;> simp [*]

theorem palTableOf_bit (t : PalTable) : palTableOf ((palTableBit t).getLsbD 0) = t := by
  cases t <;> rfl

end Sys2Proof
end

