-- ==== Sys2Proof/Laws/State.lean ====
section
/-! SUPPORT. One lemma per field per update of State, true by rfl (or by cases on the space), so that no later
proof unfolds a record update; and reading a space after an update that leaves the arrays alone. -/

namespace Sys2Proof.Machine

variable (s : State) (r : Response) (ev : List SgbCommand) (f : SpecFault) (g : SgbState) (n : Nat)
variable (sp sp' : Space) (m : Memory) (i : Nat) (v : Byte)

@[simp] theorem respondWith_cfg : (s.respondWith r ev).cfg = s.cfg := rfl
@[simp] theorem respondWith_vram : (s.respondWith r ev).vram = s.vram := rfl
@[simp] theorem respondWith_oam : (s.respondWith r ev).oam = s.oam := rfl
@[simp] theorem respondWith_eram : (s.respondWith r ev).eram = s.eram := rfl
@[simp] theorem respondWith_io : (s.respondWith r ev).io = s.io := rfl
@[simp] theorem respondWith_bgPal : (s.respondWith r ev).bgPal = s.bgPal := rfl
@[simp] theorem respondWith_objPal : (s.respondWith r ev).objPal = s.objPal := rfl
@[simp] theorem respondWith_sgbPresent : (s.respondWith r ev).sgbPresent = s.sgbPresent := rfl
@[simp] theorem respondWith_sgb : (s.respondWith r ev).sgb = s.sgb := rfl
@[simp] theorem respondWith_index : (s.respondWith r ev).index = s.index := rfl
@[simp] theorem respondWith_faultLog : (s.respondWith r ev).faultLog = s.faultLog := rfl
@[simp] theorem respondWith_draws : (s.respondWith r ev).draws = s.draws := rfl
@[simp] theorem respondWith_pending : (s.respondWith r ev).pending = s.pending := rfl
@[simp] theorem respondWith_port : (s.respondWith r ev).port = s.port := rfl
@[simp] theorem respondWith_reply : (s.respondWith r ev).reply = ⟨r, ev⟩ := rfl
@[simp] theorem respondWith_space : (s.respondWith r ev).space sp = s.space sp := by cases sp <;> rfl
@[simp] theorem respondWith_memRead : (s.respondWith r ev).memRead sp i = s.memRead sp i := by cases sp <;> rfl

@[simp] theorem respond_cfg : (s.respond r).cfg = s.cfg := rfl
@[simp] theorem respond_vram : (s.respond r).vram = s.vram := rfl
@[simp] theorem respond_oam : (s.respond r).oam = s.oam := rfl
@[simp] theorem respond_eram : (s.respond r).eram = s.eram := rfl
@[simp] theorem respond_io : (s.respond r).io = s.io := rfl
@[simp] theorem respond_bgPal : (s.respond r).bgPal = s.bgPal := rfl
@[simp] theorem respond_objPal : (s.respond r).objPal = s.objPal := rfl
@[simp] theorem respond_sgbPresent : (s.respond r).sgbPresent = s.sgbPresent := rfl
@[simp] theorem respond_sgb : (s.respond r).sgb = s.sgb := rfl
@[simp] theorem respond_index : (s.respond r).index = s.index := rfl
@[simp] theorem respond_faultLog : (s.respond r).faultLog = s.faultLog := rfl
@[simp] theorem respond_draws : (s.respond r).draws = s.draws := rfl
@[simp] theorem respond_pending : (s.respond r).pending = s.pending := rfl
@[simp] theorem respond_port : (s.respond r).port = s.port := rfl
@[simp] theorem respond_reply : (s.respond r).reply = ⟨r, []⟩ := rfl
@[simp] theorem respond_space : (s.respond r).space sp = s.space sp := by cases sp <;> rfl
@[simp] theorem respond_memRead : (s.respond r).memRead sp i = s.memRead sp i := by cases sp <;> rfl

@[simp] theorem raise_cfg : (s.raise f).cfg = s.cfg := rfl
@[simp] theorem raise_vram : (s.raise f).vram = s.vram := rfl
@[simp] theorem raise_oam : (s.raise f).oam = s.oam := rfl
@[simp] theorem raise_eram : (s.raise f).eram = s.eram := rfl
@[simp] theorem raise_io : (s.raise f).io = s.io := rfl
@[simp] theorem raise_bgPal : (s.raise f).bgPal = s.bgPal := rfl
@[simp] theorem raise_objPal : (s.raise f).objPal = s.objPal := rfl
@[simp] theorem raise_sgbPresent : (s.raise f).sgbPresent = s.sgbPresent := rfl
@[simp] theorem raise_sgb : (s.raise f).sgb = s.sgb := rfl
@[simp] theorem raise_index : (s.raise f).index = s.index := rfl
@[simp] theorem raise_faultLog : (s.raise f).faultLog = s.faultLog ++ [faultEntry s.port f] := rfl
@[simp] theorem raise_draws : (s.raise f).draws = s.draws := rfl
@[simp] theorem raise_pending : (s.raise f).pending = s.pending := rfl
@[simp] theorem raise_port : (s.raise f).port = s.port := rfl
@[simp] theorem raise_reply : (s.raise f).reply = ⟨.fault f.code f.info, []⟩ := rfl
@[simp] theorem raise_space : (s.raise f).space sp = s.space sp := by cases sp <;> rfl
@[simp] theorem raise_memRead : (s.raise f).memRead sp i = s.memRead sp i := by cases sp <;> rfl

@[simp] theorem withSgb_cfg : (s.withSgb g n).cfg = s.cfg := rfl
@[simp] theorem withSgb_vram : (s.withSgb g n).vram = s.vram := rfl
@[simp] theorem withSgb_oam : (s.withSgb g n).oam = s.oam := rfl
@[simp] theorem withSgb_eram : (s.withSgb g n).eram = s.eram := rfl
@[simp] theorem withSgb_io : (s.withSgb g n).io = s.io := rfl
@[simp] theorem withSgb_bgPal : (s.withSgb g n).bgPal = s.bgPal := rfl
@[simp] theorem withSgb_objPal : (s.withSgb g n).objPal = s.objPal := rfl
@[simp] theorem withSgb_sgbPresent : (s.withSgb g n).sgbPresent = s.sgbPresent := rfl
@[simp] theorem withSgb_sgb : (s.withSgb g n).sgb = g := rfl
@[simp] theorem withSgb_index : (s.withSgb g n).index = s.index := rfl
@[simp] theorem withSgb_faultLog : (s.withSgb g n).faultLog = s.faultLog := rfl
@[simp] theorem withSgb_draws : (s.withSgb g n).draws = n := rfl
@[simp] theorem withSgb_pending : (s.withSgb g n).pending = s.pending := rfl
@[simp] theorem withSgb_port : (s.withSgb g n).port = s.port := rfl
@[simp] theorem withSgb_reply : (s.withSgb g n).reply = s.reply := rfl
@[simp] theorem withSgb_space : (s.withSgb g n).space sp = s.space sp := by cases sp <;> rfl
@[simp] theorem withSgb_memRead : (s.withSgb g n).memRead sp i = s.memRead sp i := by cases sp <;> rfl

@[simp] theorem setSpace_cfg : (s.setSpace sp m).cfg = s.cfg := by cases sp <;> rfl
@[simp] theorem setSpace_sgbPresent : (s.setSpace sp m).sgbPresent = s.sgbPresent := by cases sp <;> rfl
@[simp] theorem setSpace_sgb : (s.setSpace sp m).sgb = s.sgb := by cases sp <;> rfl
@[simp] theorem setSpace_index : (s.setSpace sp m).index = s.index := by cases sp <;> rfl
@[simp] theorem setSpace_faultLog : (s.setSpace sp m).faultLog = s.faultLog := by cases sp <;> rfl
@[simp] theorem setSpace_draws : (s.setSpace sp m).draws = s.draws := by cases sp <;> rfl
@[simp] theorem setSpace_pending : (s.setSpace sp m).pending = s.pending := by cases sp <;> rfl
@[simp] theorem setSpace_port : (s.setSpace sp m).port = s.port := by cases sp <;> rfl
@[simp] theorem setSpace_reply : (s.setSpace sp m).reply = s.reply := by cases sp <;> rfl

@[simp] theorem setSpace_space_same : (s.setSpace sp m).space sp = m := by cases sp <;> rfl

theorem setSpace_space_other (h : sp' ≠ sp) : (s.setSpace sp m).space sp' = s.space sp' := by
  cases sp <;> cases sp' <;> first | rfl | exact absurd rfl h

@[simp] theorem memWrite_cfg : (s.memWrite sp i v).cfg = s.cfg := setSpace_cfg _ _ _
@[simp] theorem memWrite_sgbPresent : (s.memWrite sp i v).sgbPresent = s.sgbPresent := setSpace_sgbPresent _ _ _
@[simp] theorem memWrite_sgb : (s.memWrite sp i v).sgb = s.sgb := setSpace_sgb _ _ _
@[simp] theorem memWrite_index : (s.memWrite sp i v).index = s.index := setSpace_index _ _ _
@[simp] theorem memWrite_faultLog : (s.memWrite sp i v).faultLog = s.faultLog := setSpace_faultLog _ _ _
@[simp] theorem memWrite_draws : (s.memWrite sp i v).draws = s.draws := setSpace_draws _ _ _
@[simp] theorem memWrite_pending : (s.memWrite sp i v).pending = s.pending := setSpace_pending _ _ _
@[simp] theorem memWrite_port : (s.memWrite sp i v).port = s.port := setSpace_port _ _ _
@[simp] theorem memWrite_reply : (s.memWrite sp i v).reply = s.reply := setSpace_reply _ _ _

@[simp] theorem memWrite_space_same : (s.memWrite sp i v).space sp = memPut (s.space sp) i v :=
  setSpace_space_same _ _ _

theorem memWrite_space_other (h : sp' ≠ sp) : (s.memWrite sp i v).space sp' = s.space sp' :=
  setSpace_space_other _ _ _ _ h

theorem vramPut_absent : s.vramPut .absent v = s := rfl

theorem vramPut_byteAt : s.vramPut (.byteAt i) v = s.memWrite .vram i v := rfl

end Sys2Proof.Machine
end

