-- ==== Sys2Proof/Laws/Memory.lean ====
section
/-! SUPPORT. The laws of storage arrays and tables: a read after a write, the canonical form is kept, a cell of
a table built or set. -/

namespace Sys2Proof.Machine

/-- The one-byte read law of `memDrop`. -/
theorem memGet_memDrop (m : Memory) (a b : Nat) :
    memGet (memDrop m a) b = if b = a then unlistedByte else memGet m b := by
  induction m with
  | nil => simp [memDrop, memGet]
  | cons c rest ih =>
    obtain ⟨k, v⟩ := c
    unfold memDrop at ih ⊢
    by_cases hk : k = a
    · subst hk
      rw [List.filter_cons_of_neg (by simp), ih]
      by_cases hb : b = k
      · simp [hb]
      · simp [hb, memGet, Ne.symm hb]
    · rw [List.filter_cons_of_pos (by simpa using hk)]
      simp only [memGet, ih]
      by_cases hkb : k = b
      · subst hkb; simp [hk]
      · simp [hkb]

/-- The one-byte read law of `memInsert` into an array that does not list `a`. -/
theorem memGet_memInsert (m : Memory) (a : Nat) (v : Byte) (b : Nat) (h : ∀ c ∈ m, c.1 ≠ a) :
    memGet (memInsert m a v) b = if b = a then v else memGet m b := by
  induction m with
  | nil =>
    by_cases hb : b = a
    · simp [memInsert, memGet, hb]
    · simp [memInsert, memGet, hb, Ne.symm hb]
  | cons c rest ih =>
    obtain ⟨k, w⟩ := c
    have hk : k ≠ a := h (k, w) (by simp)
    have ih := ih (fun c hc => h c (by simp [hc]))
    unfold memInsert
    split
    · by_cases hb : b = a
      · simp [memGet, hb]
      · simp [memGet, hb, Ne.symm hb]
    · simp only [memGet, ih]
      by_cases hkb : k = b
      · subst hkb; simp [hk]
      · simp [hkb]

theorem memDrop_no_key (m : Memory) (a : Nat) : ∀ c ∈ memDrop m a, c.1 ≠ a := by
  intro c hc
  simpa [memDrop] using (List.mem_filter.mp hc).2

/-- A read after a write (20_memory.md R91), on one array, in every state of it. -/
theorem memGet_memPut (m : Memory) (a : Nat) (v : Byte) (b : Nat) :
    memGet (memPut m a v) b = if b = a then v else memGet m b := by
  unfold memPut
  split
  · rename_i hv; rw [memGet_memDrop, hv]
  · rw [memGet_memInsert _ _ _ _ (memDrop_no_key m a), memGet_memDrop]
    by_cases hb : b = a <;> simp [hb]

/-- A read after a write (20_memory.md R91): the byte written, and every other byte of every space as
before. -/
theorem memRead_memWrite (s : State) (sp : Space) (i : Nat) (v : Byte) (sp' : Space) (j : Nat) :
    (s.memWrite sp i v).memRead sp' j = if sp' = sp ∧ j = i then v else s.memRead sp' j := by
  unfold State.memRead
  by_cases h : sp' = sp
  · subst h; simp [memGet_memPut]
  · simp [memWrite_space_other _ _ _ _ _ h, h]

@[simp] theorem memRead_memWrite_same (s : State) (sp : Space) (i : Nat) (v : Byte) :
    (s.memWrite sp i v).memRead sp i = v := by simp [memRead_memWrite]

theorem memRead_memWrite_other (s : State) (sp sp' : Space) (i j : Nat) (v : Byte)
    (h : ¬(sp' = sp ∧ j = i)) : (s.memWrite sp i v).memRead sp' j = s.memRead sp' j := by
  simp [memRead_memWrite, h]

/-- The canonical form as a list property: strictly rising, nothing listed with the unlisted byte. -/
theorem wf_iff (m : Memory) :
    Memory.wf m = true ↔ (m.Pairwise fun c d => c.1 < d.1) ∧ ∀ c ∈ m, c.2 ≠ unlistedByte := by
  induction m with
  | nil => simp [Memory.wf]
  | cons c rest ih =>
    cases rest with
    | nil => simp [Memory.wf]
    | cons d rest =>
      simp only [Memory.wf, Bool.and_eq_true, decide_eq_true_eq, bne_iff_ne, ne_eq, ih]
      constructor
      · rintro ⟨⟨hcd, hc⟩, hp, hv⟩
        refine ⟨List.pairwise_cons.mpr ⟨?_, hp⟩, ?_⟩
        · intro e he
          rcases List.mem_cons.mp he with rfl | he
          · exact hcd
          · exact lt_trans hcd ((List.pairwise_cons.mp hp).1 e he)
        · intro e he
          rcases List.mem_cons.mp he with rfl | he
          · exact hc
          · exact hv e he
      · rintro ⟨hp, hv⟩
        have hp' := List.pairwise_cons.mp hp
        exact ⟨⟨hp'.1 d (by simp), hv c (by simp)⟩, hp'.2, fun e he => hv e (by simp [he])⟩

theorem mem_memInsert (m : Memory) (a : Nat) (v : Byte) (c : Host.Cell) :
    c ∈ memInsert m a v ↔ c = (a, v) ∨ c ∈ m := by
  induction m with
  | nil => simp [memInsert]
  | cons d rest ih =>
    unfold memInsert
    split
    · simp
    · simp only [List.mem_cons, ih]; tauto

theorem pairwise_memInsert (m : Memory) (a : Nat) (v : Byte) (hp : m.Pairwise fun c d => c.1 < d.1)
    (hk : ∀ c ∈ m, c.1 ≠ a) : (memInsert m a v).Pairwise fun c d => c.1 < d.1 := by
  induction m with
  | nil => simp [memInsert]
  | cons d rest ih =>
    have hp' := List.pairwise_cons.mp hp
    unfold memInsert
    split
    · rename_i hlt
      refine List.pairwise_cons.mpr ⟨?_, hp⟩
      intro e he
      rcases List.mem_cons.mp he with rfl | he
      · exact hlt
      · exact lt_trans hlt (hp'.1 e he)
    · rename_i hge
      refine List.pairwise_cons.mpr ⟨?_, ih hp'.2 (fun c hc => hk c (by simp [hc]))⟩
      intro e he
      rcases (mem_memInsert rest a v e).mp he with rfl | he
      · have := hk d (by simp)
        show d.1 < a
        omega
      · exact hp'.1 e he

/-- A write keeps the canonical form. -/
theorem memPut_wf (m : Memory) (a : Nat) (v : Byte) (h : Memory.wf m = true) :
    Memory.wf (memPut m a v) = true := by
  rw [wf_iff] at h ⊢
  have hd : (memDrop m a).Pairwise (fun c d => c.1 < d.1) ∧ ∀ c ∈ memDrop m a, c.2 ≠ unlistedByte :=
    ⟨h.1.filter _, fun c hc => h.2 c (List.mem_filter.mp hc).1⟩
  unfold memPut
  split
  · exact hd
  · rename_i hv
    refine ⟨pairwise_memInsert _ a v hd.1 (memDrop_no_key m a), ?_⟩
    intro c hc
    rcases (mem_memInsert _ a v c).mp hc with rfl | hc
    · exact hv
    · exact hd.2 c hc

/-- A write below a bound keeps every listed index below it. -/
theorem memPut_below (m : Memory) (a : Nat) (v : Byte) (n : Nat) (h : memBelow m n = true) (ha : a < n) :
    memBelow (memPut m a v) n = true := by
  simp only [memBelow, List.all_eq_true, decide_eq_true_eq] at h ⊢
  intro c hc
  unfold memPut at hc
  split at hc
  · exact h c (List.mem_filter.mp hc).1
  · rcases (mem_memInsert _ a v c).mp hc with rfl | hc
    · exact ha
    · exact h c (List.mem_filter.mp hc).1

/-- A write in range keeps an array canonical and in range. -/
theorem memPut_arrayOk (m : Memory) (a : Nat) (v : Byte) (n : Nat) (h : arrayOk m n) (ha : a < n) :
    arrayOk (memPut m a v) n := ⟨memPut_wf m a v h.1, memPut_below m a v n h.2 ha⟩

/-- A cell of a table that was built. -/
theorem tabGet_tabOf {α : Type} [Inhabited α] (r c : Nat) (f : Nat → Nat → α) (i j : Nat) (hi : i < r)
    (hj : j < c) : tabGet (tabOf r c f) i j = f i j := by
  simp [tabGet, tabOf, hi, hj]

/-- A cell of a table after one cell was set. -/
theorem tabGet_tabSet {α : Type} [Inhabited α] {r c : Nat} (t : Table α r c) (i j : Nat) (v : α)
    (i' j' : Nat) (hi : i < r) (hj : j < c) :
    tabGet (tabSet t i j v) i' j' = if i' = i ∧ j' = j then v else tabGet t i' j' := by
  unfold tabSet tabGet
  rw [dif_pos hi]
  by_cases hii : i' = i
  · subst hii
    by_cases hjj : j' = j
    · subst hjj; simp [hi, hj]
    · simp [hi, hjj, Ne.symm hjj]
  · simp [hii, Ne.symm hii]

end Sys2Proof.Machine
end

