-- ==== Sys2Proof/Laws/Ops.lean ====
section
/-! SUPPORT. What each shared operation can do: one lemma per operation, for the proofs to cite. -/

namespace Sys2Proof.Machine

@[simp] theorem answer_ok (s : State) (v : Response) : answer s (.ok v) = .next (s.respond v) := rfl

@[simp] theorem answer_error (s : State) (f : SpecFault) : answer s (.error f) = .next (s.raise f) := rfl

@[simp] theorem commit_ok (s t : State) : commit s (.ok t) = .next (t.respond .none) := rfl

@[simp] theorem commit_error (s : State) (f : SpecFault) : commit s (.error f) = .next (s.raise f) := rfl

/-- All a request that writes no state can do. -/
theorem answer_cases {s t : State} {r : Except SpecFault Response} (h : answer s r = .next t) :
    (∃ v, r = .ok v ∧ t = s.respond v) ∨ ∃ f, r = .error f ∧ t = s.raise f := by
  cases r with
  | ok v => exact .inl ⟨v, rfl, by simpa using h.symm⟩
  | error f => exact .inr ⟨f, rfl, by simpa using h.symm⟩

/-- All a storing request can do. -/
theorem commit_cases {s t : State} {r : Except SpecFault State} (h : commit s r = .next t) :
    (∃ u, r = .ok u ∧ t = u.respond .none) ∨ ∃ f, r = .error f ∧ t = s.raise f := by
  cases r with
  | ok u => exact .inl ⟨u, rfl, by simpa using h.symm⟩
  | error f => exact .inr ⟨f, rfl, by simpa using h.symm⟩

theorem asOwner_owner {op : BitVec 6} {s : State} {k : Result} (h : s.port.agent = .owner) :
    asOwner op s k = k := by simp [asOwner, h]

theorem asOwner_observer {op : BitVec 6} {s : State} {k : Result} (h : s.port.agent = .observer) :
    asOwner op s k = .next (s.raise ⟨.accessDenied, .num op.toNat⟩) := by simp [asOwner, h]

/-- All an Owner-only request can do. -/
theorem asOwner_cases {op : BitVec 6} {s t : State} {k : Result} (h : asOwner op s k = .next t) :
    (s.port.agent = .owner ∧ k = .next t) ∨
      (s.port.agent = .observer ∧ t = s.raise ⟨.accessDenied, .num op.toNat⟩) := by
  cases ha : s.port.agent with
  | owner => exact .inl ⟨rfl, by rwa [asOwner_owner ha] at h⟩
  | observer => rw [asOwner_observer ha] at h; exact .inr ⟨rfl, by simpa using h.symm⟩

@[simp] theorem require_true (f : SpecFault) : require true f = .ok () := rfl

@[simp] theorem require_false (f : SpecFault) : require false f = .error f := rfl

theorem needSgb_present {s : State} (h : s.sgbPresent = true) : needSgb s = .ok () := by simp [needSgb, h]

theorem needSgb_absent {s : State} (h : s.sgbPresent = false) :
    needSgb s = .error ⟨.sgbAbsent, .num 0⟩ := by simp [needSgb, h]

/-- Where a VRAM index leads when its checks pass. -/
theorem vramIndex_ok {c : Config} {bank addr : Nat} (hb : bank ≤ 1) (ha : addr ≤ 0x1FFF) :
    vramIndex c bank addr =
      .ok (if bank1Absent c bank then .absent else .byteAt (bank * 0x2000 + addr)) := by
  unfold vramIndex
  rw [if_neg (by omega), if_neg (by omega)]
  split <;> rfl

/-- A VRAM place that is a byte is one that exists. -/
theorem vramIndex_inRange {c : Config} {bank addr i : Nat} (h : vramIndex c bank addr = .ok (.byteAt i)) :
    i < vramBytes c := by
  unfold vramIndex at h
  split at h
  · cases h
  split at h
  · cases h
  split at h
  · cases h
  · rename_i h1 h2 h3
    have hi : bank * bankSize + addr = i := by simpa using h
    subst hi
    cases hm : c.mode <;> simp_all [bank1Absent, vramBytes, bankSize] <;> omega

theorem eramIndex_ok {c : Config} {bank addr : Nat} (hb : bank < c.nEramBanks) (ha : addr ≤ 0x1FFF) :
    eramIndex c bank addr = .ok (bank * 0x2000 + addr) := by
  unfold eramIndex
  rw [if_neg (by omega), if_neg (by omega)]
  rfl

theorem eramIndex_inRange {c : Config} {bank addr i : Nat} (h : eramIndex c bank addr = .ok i) :
    i < c.nEramBanks * 0x2000 := by
  unfold eramIndex at h
  split at h
  · cases h
  split at h
  · cases h
  · rename_i h1 h2
    have hi : bank * bankSize + addr = i := by simpa using h
    subst hi
    have : bank + 1 ≤ c.nEramBanks := by omega
    have := Nat.mul_le_mul_right 0x2000 this
    unfold bankSize
    omega

theorem oamByteIndex_ok {index : Byte} (h : index.toNat < 160) : oamByteIndex index = .ok index.toNat := by
  simp [oamByteIndex, oamSize, Nat.not_le.mpr h]

theorem oamByteIndex_inRange {index : Byte} {i : Nat} (h : oamByteIndex index = .ok i) : i < 160 := by
  unfold oamByteIndex at h
  split at h
  · cases h
  · rename_i h1
    have hi : index.toNat = i := by simpa using h
    unfold oamSize at h1
    omega

theorem palByteIndex_ok {index : Byte} (h : index.toNat < 64) : palByteIndex index = .ok index.toNat := by
  simp [palByteIndex, palRamSize, Nat.not_le.mpr h]

theorem palByteIndex_inRange {index : Byte} {i : Nat} (h : palByteIndex index = .ok i) : i < 64 := by
  unfold palByteIndex at h
  split at h
  · cases h
  · rename_i h1
    have hi : index.toNat = i := by simpa using h
    unfold palRamSize at h1
    omega

theorem objIndex_ok {obj : BitVec 6} (h : obj.toNat < 40) : objIndex obj = .ok obj.toNat := by
  simp [objIndex, oamEntries, Nat.not_le.mpr h]

theorem tileIndex_ok {tile : BitVec 9} (h : tile.toNat < 384) : tileIndex tile = .ok tile.toNat := by
  simp [tileIndex, h]

/-- What P1Write leaves outside the SGB record, in every state. -/
theorem p1Write_frame (s : State) (data : Byte) :
    ∃ g n, (s.p1Write data).1 = s.withSgb g n ∧ (s.sgbPresent = false → g = s.sgb ∧ n = s.draws) := by
  unfold State.p1Write
  split
  · rename_i h; exact ⟨_, _, rfl, by simp [h]⟩
  · exact ⟨s.sgb, s.draws, rfl, fun _ => ⟨rfl, rfl⟩⟩

/-- With no engine a P1 write only stores its byte (44_sgb_packet_engine.md R313). -/
theorem p1Write_absent {s : State} (h : s.sgbPresent = false) (data : Byte) : s.p1Write data = (s, []) := by
  simp [State.p1Write, h]

/-- With an engine a P1 write is one engine step. -/
theorem p1Write_present {s : State} (h : s.sgbPresent = true) (data : Byte) :
    s.p1Write data =
      (s.withSgb (engineWrite s.cfg (lineValue data) ⟨s.sgb, s.draws, []⟩).sgb
        (engineWrite s.cfg (lineValue data) ⟨s.sgb, s.draws, []⟩).draws,
       (engineWrite s.cfg (lineValue data) ⟨s.sgb, s.draws, []⟩).events) := by
  simp [State.p1Write, h]

/-- The list of `mapFaults` when no element faults. -/
theorem mapFaults_ok {α β : Type} (f : α → Except SpecFault β) (g : α → β) (l : List α)
    (h : ∀ a ∈ l, f a = .ok (g a)) : mapFaults f l = .ok (l.map g) := by
  induction l with
  | nil => rfl
  | cons a rest ih =>
    simp only [mapFaults, h a (by simp), ih (fun b hb => h b (by simp [hb])), List.map_cons, Except.map]

/-- Taking the next request. -/
theorem fetch_cons {s : State} {r : Request} {rest : List Request} (h : s.pending = r :: rest) :
    s.fetch = some (r, { s with pending := rest, port := r, index := s.index + 1 }) := by
  simp [State.fetch, h]

theorem fetch_nil {s : State} (h : s.pending = []) : s.fetch = none := by simp [State.fetch, h]

end Sys2Proof.Machine
end

