-- ==== Sys2Proof/Laws/Engine.lean ====
section
/-! SUPPORT. The SGB engine: which fields the apply rules leave alone, all that one line step can do, and that a
P1 write keeps the cursor invariants. -/

namespace Sys2Proof.Machine

section apply
variable (cmd : SgbCmd) (n : Nat) (g : SgbState)

@[simp] theorem applyCommand_sending : (applyCommand cmd n g).sending = g.sending := by
  cases cmd <;> simp only [applyCommand, cmdPalette, cmdPalSet, cmdPalTrn, cmdAttrTrn, cmdAttrSet, cmdMaskEn, cmdMltReq, cmdAtrcEn,
    cmdTestEn, cmdPctTrn, cmdAttrEdit]

@[simp] theorem applyCommand_waitReset : (applyCommand cmd n g).waitReset = g.waitReset := by
  cases cmd <;> simp only [applyCommand, cmdPalette, cmdPalSet, cmdPalTrn, cmdAttrTrn, cmdAttrSet, cmdMaskEn, cmdMltReq, cmdAtrcEn,
    cmdTestEn, cmdPctTrn, cmdAttrEdit]

@[simp] theorem applyCommand_currbit : (applyCommand cmd n g).currbit = g.currbit := by
  cases cmd <;> simp only [applyCommand, cmdPalette, cmdPalSet, cmdPalTrn, cmdAttrTrn, cmdAttrSet, cmdMaskEn, cmdMltReq, cmdAtrcEn,
    cmdTestEn, cmdPctTrn, cmdAttrEdit]

@[simp] theorem applyCommand_currbyte : (applyCommand cmd n g).currbyte = g.currbyte := by
  cases cmd <;> simp only [applyCommand, cmdPalette, cmdPalSet, cmdPalTrn, cmdAttrTrn, cmdAttrSet, cmdMaskEn, cmdMltReq, cmdAtrcEn,
    cmdTestEn, cmdPctTrn, cmdAttrEdit]

@[simp] theorem applyCommand_currpacket : (applyCommand cmd n g).currpacket = g.currpacket := by
  cases cmd <;> simp only [applyCommand, cmdPalette, cmdPalSet, cmdPalTrn, cmdAttrTrn, cmdAttrSet, cmdMaskEn, cmdMltReq, cmdAtrcEn,
    cmdTestEn, cmdPctTrn, cmdAttrEdit]

@[simp] theorem applyCommand_numpackets : (applyCommand cmd n g).numpackets = g.numpackets := by
  cases cmd <;> simp only [applyCommand, cmdPalette, cmdPalSet, cmdPalTrn, cmdAttrTrn, cmdAttrSet, cmdMaskEn, cmdMltReq, cmdAtrcEn,
    cmdTestEn, cmdPctTrn, cmdAttrEdit]

@[simp] theorem applyCommand_prevSel : (applyCommand cmd n g).prevSel = g.prevSel := by
  cases cmd <;> simp only [applyCommand, cmdPalette, cmdPalSet, cmdPalTrn, cmdAttrTrn, cmdAttrSet, cmdMaskEn, cmdMltReq, cmdAtrcEn,
    cmdTestEn, cmdPctTrn, cmdAttrEdit]

@[simp] theorem applyCommand_data : (applyCommand cmd n g).data = g.data := by
  cases cmd <;> simp only [applyCommand, cmdPalette, cmdPalSet, cmdPalTrn, cmdAttrTrn, cmdAttrSet, cmdMaskEn, cmdMltReq, cmdAtrcEn,
    cmdTestEn, cmdPctTrn, cmdAttrEdit]


end apply

theorem players_pos (m : U2) : 0 < players m := by unfold players; split <;> decide

theorem players_le (m : U2) : players m ≤ 4 := by unfold players; split <;> decide

/-- MLT_REQ is the only apply rule that touches the polling state, and it starts at joypad 0. -/
theorem applyCommand_joypad (cmd : SgbCmd) (n : Nat) (g : SgbState)
    (h : g.currentJoypad.toNat < players g.multiplayer) :
    (applyCommand cmd n g).currentJoypad.toNat < players (applyCommand cmd n g).multiplayer := by
  cases cmd
  case mltReq => exact players_pos _
  all_goals
    simpa only [applyCommand, cmdPalette, cmdPalSet, cmdPalTrn, cmdAttrTrn, cmdAttrSet, cmdMaskEn, cmdAtrcEn,
      cmdTestEn, cmdPctTrn, cmdAttrEdit] using h

theorem numPackets_le {c : Config} (hc : c.wf = true) (h : Byte) :
    1 ≤ numPackets c h ∧ numPackets c h ≤ 7 := by
  simp only [Config.wf, Bool.and_eq_true, decide_eq_true_eq] at hc
  unfold numPackets
  split
  · rename_i hne
    have hlt := (h.extractLsb' 0 3).isLt
    have hpos : (h.extractLsb' 0 3).toNat ≠ 0 := fun h0 => hne (BitVec.eq_of_toNat_eq (by simpa using h0))
    omega
  · omega

/-- The record at the moment a packet completes: cursors advanced, the count read at packet 0
(44_sgb_packet_engine.md R334). -/
def completedPacket (c : Config) (g : SgbState) : SgbState :=
  { g with
    currbyte := 0
    currpacket := g.currpacket + 1
    numpackets := if g.currpacket + 1 = 1 then numPackets c (packet0 g 0) else g.numpackets }

/-- All one line value can do to the engine before prev_sel is updated. -/
theorem lineEvent_cases (c : Config) (sel : U2) (r : SgbRun) :
    (sel = 0b00 ∧ lineEvent c sel r = { r with sgb := resetPulse r.sgb }) ∨
    (sel ≠ 0b00 ∧ bitTaken sel r.sgb = false ∧ lineEvent c sel r = r) ∨
    (sel ≠ 0b00 ∧ bitTaken sel r.sgb = true ∧
      lineEvent c sel r = finishPacket c { r with sgb := finishByte (shiftBit (sel == 0b01) r.sgb) }) := by
  unfold lineEvent
  by_cases h0 : sel = 0b00
  · exact .inl ⟨h0, if_pos h0⟩
  · rw [if_neg h0]
    cases hb : bitTaken sel r.sgb
    · exact .inr (.inl ⟨h0, rfl, rfl⟩)
    · exact .inr (.inr ⟨h0, rfl, rfl⟩)

/-- The packet cursor only moves when the byte cursor has reached 16. -/
theorem finishPacket_cases (c : Config) (r : SgbRun) :
    (r.sgb.currbyte ≠ 16 ∧ finishPacket c r = r) ∨
    (r.sgb.currbyte = 16 ∧ (completedPacket c r.sgb).currpacket = (completedPacket c r.sgb).numpackets ∧
      finishPacket c r = completeCommand { r with sgb := completedPacket c r.sgb }) ∨
    (r.sgb.currbyte = 16 ∧ (completedPacket c r.sgb).currpacket ≠ (completedPacket c r.sgb).numpackets ∧
      finishPacket c r = { r with sgb := { completedPacket c r.sgb with waitReset := true } }) := by
  unfold finishPacket
  by_cases h16 : r.sgb.currbyte = 16
  · rw [if_pos h16]
    by_cases hp : (completedPacket c r.sgb).currpacket = (completedPacket c r.sgb).numpackets
    · exact .inr (.inl ⟨h16, hp, if_pos hp⟩)
    · exact .inr (.inr ⟨h16, hp, if_neg hp⟩)
  · exact .inl ⟨h16, if_neg h16⟩

theorem resetPulse_inv {g : SgbState} (h : g.Inv) : (resetPulse g).Inv := by
  obtain ⟨hbit, hbyte, hpk, hct, hidle, hbt, hrc, hj⟩ := h
  unfold resetPulse
  split
  · exact ⟨by simp, by simp, by simp, hct, fun h => by simp at h, fun h => by simp at h,
      fun _ h => by simp at h, hj⟩
  split
  · rename_i hs hw
    exact ⟨hbit, hbyte, hpk, hct, fun h => by simp_all, fun h => by simp at h,
      fun _ _ => (hbt hw).2.2.2.2, hj⟩
  split
  · exact ⟨hbit, hbyte, hpk, hct, hidle, hbt, hrc, hj⟩
  · rename_i hs hw _
    exact ⟨by simp, by simp, by simp, hct, fun _ => ⟨rfl, rfl, by simpa using hw⟩, fun h => by simp_all,
      fun h => by simp at h, hj⟩

/-- The end of a byte, and of a packet, keeps the invariant. -/
theorem finishPacket_inv {c : Config} (hc : c.wf = true) {r : SgbRun} (hbit : r.sgb.currbit < 8)
    (h0 : r.sgb.currbyte = 16 → r.sgb.currbit = 0) (hbyte : r.sgb.currbyte ≤ 16) (hs : r.sgb.sending = true)
    (hw : r.sgb.waitReset = false) (hk : r.sgb.currpacket < 7) (hct : r.sgb.numpackets ≤ 7)
    (hrc : 1 ≤ r.sgb.currpacket → r.sgb.currpacket < r.sgb.numpackets)
    (hj : r.sgb.currentJoypad.toNat < players r.sgb.multiplayer) : (finishPacket c r).sgb.Inv := by
  have hnp := numPackets_le hc (packet0 r.sgb 0)
  have ecp : (completedPacket c r.sgb).currpacket = r.sgb.currpacket + 1 := by simp only [completedPacket]
  have enp : (completedPacket c r.sgb).numpackets ≤ 7 := by
    simp only [completedPacket]; split <;> omega
  have elt : r.sgb.currpacket + 1 ≤ (completedPacket c r.sgb).numpackets := by
    simp only [completedPacket]
    by_cases hz : r.sgb.currpacket = 0
    · simp only [hz, Nat.zero_add, if_true]; omega
    · rw [if_neg (by omega)]; have := hrc (by omega); omega
  rcases finishPacket_cases c r with ⟨h16, e⟩ | ⟨h16, hp, e⟩ | ⟨h16, hp, e⟩ <;> rw [e]
  · exact ⟨hbit, by omega, by omega, hct, fun h => by simp [hs] at h, fun h => by simp [hw] at h,
      fun _ => hrc, hj⟩
  · refine ⟨?_, ?_, ?_, ?_, ?_, ?_, ?_, ?_⟩ <;>
      simp only [completeCommand, applyCommand_currbit, applyCommand_currbyte, applyCommand_currpacket,
        applyCommand_numpackets]
    · simpa only [completedPacket] using hbit
    · simp only [completedPacket]; omega
    · omega
    · exact enp
    · exact fun _ => ⟨by simpa only [completedPacket] using h0 h16, by simp only [completedPacket], trivial⟩
    · exact fun h => by simp at h
    · exact fun h => by simp at h
    · exact applyCommand_joypad _ _ _ (by simpa only [completedPacket] using hj)
  · have hlt : r.sgb.currpacket + 1 < (completedPacket c r.sgb).numpackets := by omega
    refine ⟨?_, ?_, ?_, enp, ?_, fun _ => ⟨?_, ?_, ?_, ?_, ?_⟩, fun _ _ => ?_, ?_⟩
    · simpa only [completedPacket] using hbit
    · simp only [completedPacket]; omega
    · simp only [ecp]; omega
    · exact fun h => by simp [completedPacket, hs] at h
    · simpa only [completedPacket] using hs
    · simpa only [completedPacket] using h0 h16
    · simp only [completedPacket]
    · simp only [ecp]; omega
    · simp only [ecp]; exact hlt
    · simp only [ecp]; exact hlt
    · simpa only [completedPacket] using hj

/-- A bit taken keeps the invariant. -/
theorem bit_inv {c : Config} (hc : c.wf = true) {sel : U2} {r : SgbRun} (h : r.sgb.Inv)
    (hb : bitTaken sel r.sgb = true) :
    (finishPacket c { r with sgb := finishByte (shiftBit (sel == 0b01) r.sgb) }).sgb.Inv := by
  obtain ⟨hbit, hbyte, hpk, hct, hidle, hbt, hrc, hj⟩ := h
  simp only [bitTaken, Bool.and_eq_true, Bool.not_eq_true'] at hb
  obtain ⟨⟨-, hs⟩, hw⟩ := hb
  have hk : r.sgb.currpacket < 7 := by
    by_cases h0 : 1 ≤ r.sgb.currpacket
    · have := hrc hs h0; omega
    · omega
  by_cases h8 : r.sgb.currbit + 1 = 8
  · have hf : finishByte (shiftBit (sel == 0b01) r.sgb) =
        { shiftBit (sel == 0b01) r.sgb with currbit := 0, currbyte := r.sgb.currbyte + 1 } := if_pos h8
    rw [hf]
    exact finishPacket_inv hc (by simp) (fun _ => by simp) (by simp; omega) (by simpa [shiftBit] using hs)
      (by simpa [shiftBit] using hw) (by simpa [shiftBit] using hk) (by simpa [shiftBit] using hct)
      (by simpa [shiftBit] using hrc hs) (by simpa [shiftBit] using hj)
  · have hf : finishByte (shiftBit (sel == 0b01) r.sgb) = shiftBit (sel == 0b01) r.sgb := if_neg h8
    rw [hf]
    exact finishPacket_inv hc (by simp [shiftBit]; omega) (fun h => by simp [shiftBit] at h; omega)
      (by simp [shiftBit]; omega) (by simpa [shiftBit] using hs)
      (by simpa [shiftBit] using hw) (by simpa [shiftBit] using hk) (by simpa [shiftBit] using hct)
      (by simpa [shiftBit] using hrc hs) (by simpa [shiftBit] using hj)

theorem lineStep_inv {c : Config} (hc : c.wf = true) (sel : U2) {r : SgbRun} (h : r.sgb.Inv) :
    (lineStep c sel r).sgb.Inv := by
  have hp : ∀ {g : SgbState}, g.Inv → ({ g with prevSel := sel } : SgbState).Inv := fun h =>
    ⟨h.bit, h.byte, h.packet, h.count, h.idle, h.between, h.receiving, h.joypad⟩
  refine hp ?_
  rcases lineEvent_cases c sel r with ⟨-, e⟩ | ⟨-, -, e⟩ | ⟨-, hb, e⟩ <;> rw [e]
  · exact resetPulse_inv h
  · exact h
  · exact bit_inv hc h hb

theorem multiplayerStep_inv (sel : U2) {g : SgbState} (h : g.Inv) : (multiplayerStep sel g).Inv := by
  have keep : ∀ (j : U2) (b : Bool), j.toNat < players g.multiplayer →
      ({ g with currentJoypad := j, readJoypad := b } : SgbState).Inv := fun j b hj =>
    ⟨h.bit, h.byte, h.packet, h.count, h.idle, h.between, h.receiving, hj⟩
  unfold multiplayerStep
  split
  · split
    · split
      · refine keep _ _ ?_
        have h1 := Nat.mod_lt (g.currentJoypad.toNat + 1) (players_pos g.multiplayer)
        have h2 := players_le g.multiplayer
        rw [BitVec.toNat_ofNat, Nat.mod_eq_of_lt (by omega)]
        exact h1
      · exact h
    · exact keep _ _ h.joypad
  · exact h

/-- One P1 write keeps the cursor invariants of 10_state.md R55. -/
theorem engineWrite_inv {c : Config} (hc : c.wf = true) (sel : U2) {r : SgbRun} (h : r.sgb.Inv) :
    (engineWrite c sel r).sgb.Inv := multiplayerStep_inv sel (lineStep_inv hc sel h)

/-- A little-endian word of packet 0 as a number (44_sgb_packet_engine.md R342). -/
theorem le16_toNat (g : SgbState) (i : Nat) :
    (le16 g i).toNat = (packet0 g i).toNat + 256 * (packet0 g (i + 1)).toNat := by
  have h := (packet0 g i).isLt
  rw [le16, BitVec.toNat_append, ← Nat.shiftLeft_add_eq_or_of_lt h, Nat.shiftLeft_eq]
  omega

/-- The memory of the reset state has the canonical form. -/
theorem reset_arrays_wf (sp : Space) : Memory.wf (State.reset.space sp) = true := by cases sp <;> rfl

end Sys2Proof.Machine
end

