-- ==== Sys2Proof/Laws/PerInstr.lean ====
section
/-! SUPPORT. Families of lemmas per request, as LAWS.json names them. TableRow: the encoded word has the match
bits of the request's row of the opcode map under the row's mask (30_encoding.md R123). -/

namespace Sys2Proof.Laws.TableRow

/-- The request has a row of the opcode map, and its word matches it. -/
def Statement (i : Instr) : Prop := ∃ r, rowOf i = some r ∧ encode i &&& r.mask = r.matchBits

/-- Two 32-bit words with the same bits. -/
theorem word_ext {v w : Word} (h : ∀ k, k < 32 → v.getLsbD k = w.getLsbD k) : v = w :=
  BitVec.eq_of_getLsbD_eq fun k hk => h k hk

theorem vramRd a b : Statement (.vramRd a b) := by
  refine ⟨_, rfl, word_ext fun k hk => ?_⟩
  interval_cases k <;> simp [encode, operandsOf, opcodeOf, getLsbD_place, -BitVec.getLsbD_eq_getElem]

theorem vramWr a b c : Statement (.vramWr a b c) := by
  refine ⟨_, rfl, word_ext fun k hk => ?_⟩
  interval_cases k <;> simp [encode, operandsOf, opcodeOf, getLsbD_place, -BitVec.getLsbD_eq_getElem]

theorem oamRd a : Statement (.oamRd a) := by
  refine ⟨_, rfl, word_ext fun k hk => ?_⟩
  interval_cases k <;> simp [encode, operandsOf, opcodeOf, getLsbD_place, -BitVec.getLsbD_eq_getElem]

theorem oamWr a b : Statement (.oamWr a b) := by
  refine ⟨_, rfl, word_ext fun k hk => ?_⟩
  interval_cases k <;> simp [encode, operandsOf, opcodeOf, getLsbD_place, -BitVec.getLsbD_eq_getElem]

theorem eramRd a b : Statement (.eramRd a b) := by
  refine ⟨_, rfl, word_ext fun k hk => ?_⟩
  interval_cases k <;> simp [encode, operandsOf, opcodeOf, getLsbD_place, -BitVec.getLsbD_eq_getElem]

theorem eramWr a b c : Statement (.eramWr a b c) := by
  refine ⟨_, rfl, word_ext fun k hk => ?_⟩
  interval_cases k <;> simp [encode, operandsOf, opcodeOf, getLsbD_place, -BitVec.getLsbD_eq_getElem]

theorem eramfRd a : Statement (.eramfRd a) := by
  refine ⟨_, rfl, word_ext fun k hk => ?_⟩
  interval_cases k <;> simp [encode, operandsOf, opcodeOf, getLsbD_place, -BitVec.getLsbD_eq_getElem]

theorem eramfWr a b : Statement (.eramfWr a b) := by
  refine ⟨_, rfl, word_ext fun k hk => ?_⟩
  interval_cases k <;> simp [encode, operandsOf, opcodeOf, getLsbD_place, -BitVec.getLsbD_eq_getElem]

theorem ioRd a : Statement (.ioRd a) := by
  refine ⟨_, rfl, word_ext fun k hk => ?_⟩
  interval_cases k <;> simp [encode, operandsOf, opcodeOf, getLsbD_place, -BitVec.getLsbD_eq_getElem]

theorem ioWr a b : Statement (.ioWr a b) := by
  refine ⟨_, rfl, word_ext fun k hk => ?_⟩
  interval_cases k <;> simp [encode, operandsOf, opcodeOf, getLsbD_place, -BitVec.getLsbD_eq_getElem]

theorem palRd a b : Statement (.palRd a b) := by
  refine ⟨_, rfl, word_ext fun k hk => ?_⟩
  interval_cases k <;> simp [encode, operandsOf, opcodeOf, getLsbD_place, -BitVec.getLsbD_eq_getElem]

theorem palWr a b c : Statement (.palWr a b c) := by
  refine ⟨_, rfl, word_ext fun k hk => ?_⟩
  interval_cases k <;> simp [encode, operandsOf, opcodeOf, getLsbD_place, -BitVec.getLsbD_eq_getElem]

theorem resolveColor a b c : Statement (.resolveColor a b c) := by
  refine ⟨_, rfl, word_ext fun k hk => ?_⟩
  interval_cases k <;> simp [encode, operandsOf, opcodeOf, getLsbD_place, -BitVec.getLsbD_eq_getElem]

theorem resolveBgColor a b : Statement (.resolveBgColor a b) := by
  refine ⟨_, rfl, word_ext fun k hk => ?_⟩
  interval_cases k <;> simp [encode, operandsOf, opcodeOf, getLsbD_place, -BitVec.getLsbD_eq_getElem]

theorem resolveSgbColor a b c : Statement (.resolveSgbColor a b c) := by
  refine ⟨_, rfl, word_ext fun k hk => ?_⟩
  interval_cases k <;> simp [encode, operandsOf, opcodeOf, getLsbD_place, -BitVec.getLsbD_eq_getElem]

theorem decodeTileRow a b c d e : Statement (.decodeTileRow a b c d e) := by
  refine ⟨_, rfl, word_ext fun k hk => ?_⟩
  interval_cases k <;> simp [encode, operandsOf, opcodeOf, getLsbD_place, -BitVec.getLsbD_eq_getElem]

theorem decodeSprite a : Statement (.decodeSprite a) := by
  refine ⟨_, rfl, word_ext fun k hk => ?_⟩
  interval_cases k <;> simp [encode, operandsOf, opcodeOf, getLsbD_place, -BitVec.getLsbD_eq_getElem]

theorem spriteVisible a : Statement (.spriteVisible a) := by
  refine ⟨_, rfl, word_ext fun k hk => ?_⟩
  interval_cases k <;> simp [encode, operandsOf, opcodeOf, getLsbD_place, -BitVec.getLsbD_eq_getElem]

theorem rasterSprite a : Statement (.rasterSprite a) := by
  refine ⟨_, rfl, word_ext fun k hk => ?_⟩
  interval_cases k <;> simp [encode, operandsOf, opcodeOf, getLsbD_place, -BitVec.getLsbD_eq_getElem]

theorem composePixel a b c d : Statement (.composePixel a b c d) := by
  refine ⟨_, rfl, word_ext fun k hk => ?_⟩
  interval_cases k <;> simp [encode, operandsOf, opcodeOf, getLsbD_place, -BitVec.getLsbD_eq_getElem]

theorem sgbInit : Statement (.sgbInit) := by
  refine ⟨_, rfl, word_ext fun k hk => ?_⟩
  interval_cases k <;> simp [encode, operandsOf, opcodeOf, getLsbD_place, -BitVec.getLsbD_eq_getElem]

theorem sgbEnd : Statement (.sgbEnd) := by
  refine ⟨_, rfl, word_ext fun k hk => ?_⟩
  interval_cases k <;> simp [encode, operandsOf, opcodeOf, getLsbD_place, -BitVec.getLsbD_eq_getElem]

theorem sgbStatus : Statement (.sgbStatus) := by
  refine ⟨_, rfl, word_ext fun k hk => ?_⟩
  interval_cases k <;> simp [encode, operandsOf, opcodeOf, getLsbD_place, -BitVec.getLsbD_eq_getElem]

theorem sgbPalRd a b : Statement (.sgbPalRd a b) := by
  refine ⟨_, rfl, word_ext fun k hk => ?_⟩
  interval_cases k <;> simp [encode, operandsOf, opcodeOf, getLsbD_place, -BitVec.getLsbD_eq_getElem]

theorem sgbSnespalRd a b : Statement (.sgbSnespalRd a b) := by
  refine ⟨_, rfl, word_ext fun k hk => ?_⟩
  interval_cases k <;> simp [encode, operandsOf, opcodeOf, getLsbD_place, -BitVec.getLsbD_eq_getElem]

theorem sgbAtfRd a b c : Statement (.sgbAtfRd a b c) := by
  refine ⟨_, rfl, word_ext fun k hk => ?_⟩
  interval_cases k <;> simp [encode, operandsOf, opcodeOf, getLsbD_place, -BitVec.getLsbD_eq_getElem]

theorem sgbCuratfRd a b : Statement (.sgbCuratfRd a b) := by
  refine ⟨_, rfl, word_ext fun k hk => ?_⟩
  interval_cases k <;> simp [encode, operandsOf, opcodeOf, getLsbD_place, -BitVec.getLsbD_eq_getElem]

theorem sgbPktRd a b : Statement (.sgbPktRd a b) := by
  refine ⟨_, rfl, word_ext fun k hk => ?_⟩
  interval_cases k <;> simp [encode, operandsOf, opcodeOf, getLsbD_place, -BitVec.getLsbD_eq_getElem]

end Sys2Proof.Laws.TableRow
end

