-- ==== Sys2Proof/Tests/Slice0.lean ====
section
/-! SUPPORT. The model's own tests. Words are written out from the formats of 30_encoding.md and from
95_test_vectors.md; expected results are those of 95_test_vectors.md at the table a test names. After them, for
every statement with hypotheses, a witness that meets them at boundary values. -/

open Sys2Proof Sys2Proof.Machine

namespace Sys2Proof.Tests

/-! ## WellFormed -/

theorem test_wf_refuses_bank : Instr.wf (.vramRd 2 0) = false ∧ Instr.wf (.vramWr 2 0 0) = false := by decide
theorem test_wf_refuses_vram_offset :
    Instr.wf (.vramRd 1 0x2000) = false ∧ Instr.wf (.vramWr 1 0x2000 0) = false := by decide
theorem test_wf_refuses_oam_index : Instr.wf (.oamRd 160) = false ∧ Instr.wf (.oamWr 160 0) = false := by decide
theorem test_wf_refuses_eram_offset :
    Instr.wf (.eramRd 0 0x2000) = false ∧ Instr.wf (.eramWr 0 0x2000 0) = false := by decide
theorem test_wf_refuses_palette_index :
    Instr.wf (.palRd .bg 64) = false ∧ Instr.wf (.palWr .obj 64 0) = false := by decide
theorem test_wf_refuses_tile : Instr.wf (.decodeTileRow 0 384 0 false false) = false := by decide
theorem test_wf_refuses_sprite :
    Instr.wf (.decodeSprite 40) = false ∧ Instr.wf (.spriteVisible 40) = false ∧
      Instr.wf (.rasterSprite 40) = false := by decide
theorem test_wf_refuses_coordinate :
    Instr.wf (.resolveSgbColor 20 0 0) = false ∧ Instr.wf (.resolveSgbColor 0 18 0) = false ∧
      Instr.wf (.sgbAtfRd 0 20 0) = false ∧ Instr.wf (.sgbAtfRd 0 0 18) = false ∧
      Instr.wf (.sgbCuratfRd 20 0) = false ∧ Instr.wf (.sgbCuratfRd 0 18) = false := by decide
theorem test_wf_refuses_file : Instr.wf (.sgbAtfRd 45 0 0) = false := by decide
theorem test_wf_refuses_packet : Instr.wf (.sgbPktRd 7 0) = false := by decide
theorem test_wf_admits_last :
    Instr.wf (.vramWr 1 0x1FFF 0) = true ∧ Instr.wf (.oamRd 159) = true ∧ Instr.wf (.palRd .obj 63) = true ∧
      Instr.wf (.decodeTileRow 1 383 7 true true) = true ∧ Instr.wf (.rasterSprite 39) = true ∧
      Instr.wf (.sgbAtfRd 44 19 17) = true ∧ Instr.wf (.sgbPktRd 6 15) = true := by decide
theorem test_config_wf_refuses :
    Config.wf { Config.reset with nEramBanks := 17 } = false ∧
      Config.wf { Config.reset with sgbLen0Packets := 0 } = false ∧
      Config.wf { Config.reset with sgbLen0Packets := 8 } = false ∧ Config.wf Config.reset = true := by decide

/-! ## Decoding: one word of each row, from 95_test_vectors.md parts 2 and 3 -/

theorem test_decode_vram :
    decode 0x041FFF00 = .ok (.vramRd 0 0x1FFF) ∧ decode 0x08401055 = .ok (.vramWr 1 0x0010 0x55) := by decide
theorem test_decode_oam : decode 0x0C009F00 = .ok (.oamRd 159) ∧ decode 0x10000410 = .ok (.oamWr 4 0x10) := by
  decide
theorem test_decode_eram :
    decode 0x14DFFF00 = .ok (.eramRd 3 0x1FFF) ∧ decode 0x184E0077 = .ok (.eramWr 1 0x0E00 0x77) ∧
      decode 0x1C2E0000 = .ok (.eramfRd 0x2E00) ∧ decode 0x21F00012 = .ok (.eramfWr 0x1F000 0x12) := by decide
theorem test_decode_io : decode 0x24004700 = .ok (.ioRd 0x47) ∧ decode 0x280047E4 = .ok (.ioWr 0x47 0xE4) := by
  decide
theorem test_decode_pal :
    decode 0x2E003F00 = .ok (.palRd .obj 0x3F) ∧ decode 0x3000017F = .ok (.palWr .bg 0x01 0x7F) := by decide
theorem test_decode_color :
    decode 0x42D00000 = .ok (.resolveColor true 3 1) ∧ decode 0x47ED0000 = .ok (.resolveBgColor 0xFB 1) ∧
      decode 0x4800C000 = .ok (.resolveSgbColor 0 0 3) ∧ decode 0x48204000 = .ok (.resolveSgbColor 1 0 1) := by
  decide
theorem test_decode_tile :
    decode 0x62010000 = .ok (.decodeTileRow 1 1 0 false false) ∧
      decode 0x617FE000 = .ok (.decodeTileRow 0 383 7 false false) ∧
      decode 0x60011000 = .ok (.decodeTileRow 0 1 0 true false) ∧
      decode 0x60010800 = .ok (.decodeTileRow 0 1 0 false true) := by decide
theorem test_decode_sprite :
    decode 0x83F00000 = .ok (.decodeSprite 63) ∧ decode 0x84500000 = .ok (.spriteVisible 5) ∧
      decode 0x88100000 = .ok (.rasterSprite 1) ∧ decode 0x8F900000 = .ok (.composePixel 3 true 0 true) := by
  decide
theorem test_decode_sgb :
    decode 0xA0000000 = .ok .sgbInit ∧ decode 0xA4000000 = .ok .sgbEnd ∧ decode 0xA8000000 = .ok .sgbStatus ∧
      decode 0xAFF80000 = .ok (.sgbPalRd 7 15) ∧ decode 0xB3FF8000 = .ok (.sgbSnespalRd 511 3) ∧
      decode 0xB429C400 = .ok (.sgbAtfRd 2 19 17) ∧ decode 0xB8600000 = .ok (.sgbCuratfRd 3 0) ∧
      decode 0xBC080000 = .ok (.sgbPktRd 0 1) := by decide

/-- Table 2.1: unassigned opcodes and reserved bits. -/
theorem test_decode_refuses :
    decode 0xFC000000 = .error .unassignedOpcode ∧ decode 0x34000000 = .error .unassignedOpcode ∧
      decode 0x04000001 = .error .reservedBits ∧ decode 0x0C010000 = .error .reservedBits ∧
      decode 0x2E800000 = .error .reservedBits ∧ decode 0x40000001 = .error .reservedBits ∧
      decode 0xA0000001 = .error .reservedBits := by decide

/-- The host's two entry points on a row. -/
theorem test_table_word :
    decodeTableWord 32 0x0800103C = some (.vramWr 0 0x10 0x3C) ∧
      (State.reset.withFetchWord 32 0x0800103C).pending = [⟨0x0800103C, .owner⟩] := by decide

/-! ## Small states -/

/-- What a request answered. -/
def replyOf : Result → Option Reply
  | .next t => some t.reply
  | .fault _ => none
  | .refused _ => none

/-- The state it left. -/
def after (r : Result) (d : State) : State :=
  match r with
  | .next t => t
  | .fault _ => d
  | .refused _ => d

/-- The common start state of 95_test_vectors.md in mode `m`. -/
def start (m : Mode) : State := { State.reset with cfg := { Config.reset with mode := m } }

/-- The start state with bytes of one space stored. -/
def stored (m : Mode) (l : List (Space × Nat × Byte)) : State :=
  l.foldl (fun s e => s.memWrite e.1 e.2.1 e.2.2) (start m)

/-- An instance with an engine whose record is `g`. -/
def withEngine (g : SgbState) : State := { start .dmg with sgbPresent := true, sgb := g }

/-- The same state with an Observer at the port. -/
def observing (s : State) : State := { s with port := ⟨s.port.word, .observer⟩ }

/-! ## Single steps, memory ports (Tables 2.1 to 2.5) -/

theorem test_vram_write : replyOf (exec (.vramWr 0 0x10 0x3C) (start .dmg)) = some ⟨.none, []⟩ ∧
    (after (exec (.vramWr 0 0x10 0x3C) (start .dmg)) (start .dmg)).vram = [(0x10, 0x3C)] := by decide
theorem test_vram_bank1_by_mode :
    (after (exec (.vramWr 1 0x10 0x55) (start .dmg)) (start .dmg)).vram = [] ∧
      (after (exec (.vramWr 1 0x10 0x55) (start .gbcCompat)) (start .dmg)).vram = [(0x2010, 0x55)] := by decide
theorem test_vram_read_dmg_bank1 : replyOf (exec (.vramRd 1 0x10) (start .dmg)) = some ⟨.byte 0xFF, []⟩ := by decide
theorem test_vram_read_faults :
    replyOf (exec (.vramRd 0 0x2000) (start .dmg)) = some ⟨.fault .addrOutOfRange (.num 0x2000), []⟩ ∧
      replyOf (exec (.vramRd 15 0x3FFF) (start .dmg)) = some ⟨.fault .bankOutOfRange (.num 15), []⟩ := by decide
theorem test_oam_ports :
    replyOf (exec (.oamRd 4) (stored .dmg [(.oam, 4, 0x10)])) = some ⟨.byte 0x10, []⟩ ∧
      replyOf (exec (.oamWr 255 1) (start .dmg)) = some ⟨.fault .addrOutOfRange (.num 255), []⟩ := by decide
theorem test_eram_write : (after (exec (.eramWr 1 0x0E00 0x77) (start .dmg)) (start .dmg)).eram =
    [(0x2E00, 0x77)] := by decide
theorem test_eram_reads :
    replyOf (exec (.eramRd 1 0x0E00) (stored .dmg [(.eram, 0x2E00, 0x77)])) = some ⟨.byte 0x77, []⟩ ∧
      replyOf (exec (.eramfRd 0x2E00) (stored .dmg [(.eram, 0x2E00, 0x77)])) = some ⟨.byte 0x77, []⟩ ∧
      replyOf (exec (.eramfRd 0x8000) (start .dmg)) = some ⟨.fault .bankOutOfRange (.num 4), []⟩ := by decide
theorem test_eramf_write : (after (exec (.eramfWr 0x7FFF 0x99) (start .dmg)) (start .dmg)).eram =
    [(0x7FFF, 0x99)] := by decide
theorem test_io_ports :
    replyOf (exec (.ioRd 0x47) (stored .dmg [(.io, 0x47, 0xE4)])) = some ⟨.byte 0xE4, []⟩ ∧
      (after (exec (.ioWr 0xFF 0x1F) (start .dmg)) (start .dmg)).io = [(0xFF, 0x1F)] := by decide
theorem test_p1_read : replyOf (exec (.ioRd 0) (stored .dmg [(.io, 0, 0x10)])) = some ⟨.byte 0xDF, []⟩ := by decide
theorem test_pal_write : (after (exec (.palWr .obj 0x3F 0xAB) (start .dmg)) (start .dmg)).objPal =
    [(0x3F, 0xAB)] := by decide
theorem test_pal_read :
    replyOf (exec (.palRd .bg 1) (stored .dmg [(.bgPal, 1, 0x7F)])) = some ⟨.byte 0x7F, []⟩ ∧
      replyOf (exec (.palRd .obj 1) (stored .dmg [(.bgPal, 1, 0x7F)])) = some ⟨.byte 0, []⟩ := by decide

/-- Table 2.1: the agent check comes before the bank check, the log gains one entry. -/
theorem test_observer_denied :
    (after (step { start .dmg with pending := [⟨0x08800000, .observer⟩] }) (start .dmg)).faultLog =
      [⟨0x08800000, .observer, .accessDenied, .num 2⟩] := by decide

/-! ## Single steps, colour (Tables 2.5a to 2.5c) -/

theorem test_color_dmg :
    replyOf (exec (.resolveColor true 0 0) (stored .dmg [(.io, 0x48, 0xD2)])) = some ⟨.rgb ⟨80, 80, 80⟩, []⟩ ∧
      replyOf (exec (.resolveColor true 1 0) (stored .dmg [(.io, 0x49, 0x1B)])) = some ⟨.rgb ⟨0, 0, 0⟩, []⟩ := by
  decide
theorem test_color_cgb :
    replyOf (exec (.resolveColor false 1 3) (stored .cgbEnabled [(.bgPal, 14, 0x94), (.bgPal, 15, 0x52)])) =
      some ⟨.rgb ⟨160, 160, 160⟩, []⟩ := by decide
theorem test_color_bg :
    replyOf (exec (.resolveBgColor 0xFB 1) (stored .cgbEnabled [(.bgPal, 26, 0x1F)])) =
      some ⟨.rgb ⟨248, 0, 0⟩, []⟩ ∧
    replyOf (exec (.resolveBgColor 0xFF 2) (stored .dmg [(.io, 0x47, 0xE4)])) =
      some ⟨.rgb ⟨80, 80, 80⟩, []⟩ := by decide
theorem test_color_sgb :
    replyOf (exec (.resolveSgbColor 0 0 1) (withEngine sgbAfterInit)) = some ⟨.rgb ⟨168, 168, 168⟩, []⟩ := by
  decide

/-! ## Single steps, tiles and sprites (Tables 2.6 to 2.10) -/

/-- Tile 1 rows 1 and 6 of Table 2.6. -/
def tileState : State :=
  stored .dmg [(.vram, 0x12, 0xF0), (.vram, 0x13, 0xCC), (.vram, 0x1C, 0x80), (.vram, 0x1D, 0x01)]

/-- A row answer as the word 95_test_vectors.md writes. -/
def rowWordOf (r : Result) : Option Half :=
  match replyOf r with
  | some ⟨.row p, _⟩ => some (rowWord p)
  | _ => none

/-- A grid answer as its row words. -/
def gridWordsOf (r : Result) : List Half :=
  match replyOf r with
  | some ⟨.grid _ g, _⟩ => g.map rowWord
  | _ => []

theorem test_tile_rows :
    rowWordOf (exec (.decodeTileRow 0 1 1 false false) tileState) = some 0xF5A0 ∧
      rowWordOf (exec (.decodeTileRow 0 1 1 true false) tileState) = some 0x0A5F ∧
      rowWordOf (exec (.decodeTileRow 0 1 6 false false) tileState) = some 0x4002 := by decide
theorem test_tile_flips :
    rowWordOf (exec (.decodeTileRow 0 1 6 true true) tileState) = some 0x0A5F ∧
      rowWordOf (exec (.decodeTileRow 1 1 0 false false) tileState) = some 0xFFFF := by decide

/-- Tile 4 row 0 and tile 5 rows 0 and 7 of Table 2.7, entries 0 and 1. -/
def spriteState (lcdc : Byte) : State :=
  stored .dmg [(.vram, 0x40, 0x80), (.vram, 0x51, 0x80), (.vram, 0x5F, 0x01), (.io, 0x40, lcdc),
    (.oam, 0, 16), (.oam, 1, 8), (.oam, 2, 5), (.oam, 4, 16), (.oam, 5, 8), (.oam, 6, 5), (.oam, 7, 0x40)]

theorem test_sprite_short :
    gridWordsOf (exec (.decodeSprite 1) (spriteState 0x00)) = [0x0002, 0, 0, 0, 0, 0, 0, 0x8000] := by decide
theorem test_sprite_tall :
    gridWordsOf (exec (.decodeSprite 0) (spriteState 0x04)) =
      [0x4000, 0, 0, 0, 0, 0, 0, 0, 0x8000, 0, 0, 0, 0, 0, 0, 0x0002] := by decide
theorem test_sprite_visible :
    replyOf (exec (.spriteVisible 5) (stored .dmg [(.oam, 20, 8), (.oam, 21, 8)])) = some ⟨.bool false, []⟩ ∧
      replyOf (exec (.spriteVisible 5) (stored .dmg [(.oam, 20, 8), (.oam, 21, 8), (.io, 0x40, 4)])) =
        some ⟨.bool true, []⟩ := by decide
theorem test_sprite_visible_columns :
    replyOf (exec (.spriteVisible 5) (stored .dmg [(.oam, 20, 16), (.oam, 21, 167)])) = some ⟨.bool true, []⟩ ∧
      replyOf (exec (.spriteVisible 5) (stored .dmg [(.oam, 20, 16), (.oam, 21, 168)])) =
        some ⟨.bool false, []⟩ := by decide

/-- Table 2.8, the first eight actions of RASTER_SPRITE 0. -/
def rasterState (f : SinkFormat) : State :=
  { stored .dmg [(.vram, 0x10, 0x3C), (.vram, 0x11, 0x7E), (.io, 0x48, 0xE4), (.oam, 0, 16), (.oam, 1, 8),
      (.oam, 2, 1)] with cfg := { Config.reset with sinkFormat := f } }

/-- The actions of a pixel list. -/
def actionsOf (r : Result) : List PixelAction :=
  match replyOf r with
  | some ⟨.pixels l, _⟩ => (l.take 8).map (fun p => p.action)
  | _ => []

theorem test_raster_rgb : actionsOf (exec (.rasterSprite 0) (rasterState .rgb)) =
    [.skip, .write ⟨80, 80, 80⟩, .write ⟨0, 0, 0⟩, .write ⟨0, 0, 0⟩, .write ⟨0, 0, 0⟩, .write ⟨0, 0, 0⟩,
      .write ⟨80, 80, 80⟩, .skip] := by decide
theorem test_raster_rgba : (actionsOf (exec (.rasterSprite 0) (rasterState .rgba))).take 3 =
    [.writeRgba ⟨0, 0, 0⟩ 0, .writeRgba ⟨80, 80, 80⟩ 255, .writeRgba ⟨0, 0, 0⟩ 255] := by decide
theorem test_compose_dmg :
    replyOf (exec (.composePixel 2 false 1 true) (start .dmg)) = some ⟨.layer .bg, []⟩ ∧
      replyOf (exec (.composePixel 1 true 1 false) (start .dmg)) = some ⟨.layer .obj, []⟩ := by decide
theorem test_compose_cgb :
    replyOf (exec (.composePixel 1 true 1 false) (stored .cgbEnabled [(.io, 0x40, 1)])) =
      some ⟨.layer .bg, []⟩ ∧
    replyOf (exec (.composePixel 1 true 1 false) (start .cgbEnabled)) = some ⟨.layer .obj, []⟩ := by decide

/-! ## Single steps, the SGB engine (Tables 2.11 and 2.12, Programs E and F) -/

/-- The scalar answer of SGB_STATUS as 95_test_vectors.md lists it. -/
def cursors (g : SgbState) : Bool × Bool × Nat × Nat × Nat × Nat × Nat :=
  (g.sending, g.waitReset, g.currbit, g.currbyte, g.currpacket, g.numpackets, g.prevSel.toNat)

/-- What one P1 write with these select lines makes of a record. -/
def p1Step (sel : U2) (g : SgbState) : SgbState := (engineWrite Config.reset sel ⟨g, 0, []⟩).sgb

/-- A record in the middle of a transfer. -/
def receiving (bit byte packet count : Nat) (prev : U2) : SgbState :=
  { sgbAfterInit with
    sending := true
    currbit := bit
    currbyte := byte
    currpacket := packet
    numpackets := count
    prevSel := prev }

theorem test_sgb_init :
    (after (exec .sgbInit (start .dmg)) (start .dmg)).sgbPresent = true ∧
      cursors (after (exec .sgbInit (start .dmg)) (start .dmg)).sgb = (false, false, 0, 0, 0, 0, 3) := by decide
theorem test_sgb_end : (after (exec .sgbEnd (withEngine sgbAfterInit)) (start .dmg)).sgbPresent = false := by decide
theorem test_sgb_absent :
    replyOf (exec .sgbStatus (start .dmg)) = some ⟨.fault .sgbAbsent (.num 0), []⟩ ∧
      replyOf (exec (.sgbAtfRd 45 0 0) (start .dmg)) = some ⟨.fault .sgbAbsent (.num 0), []⟩ := by decide
theorem test_sgb_status : replyOf (exec .sgbStatus (withEngine (p1Step 0 sgbAfterInit))) =
    some ⟨.status ⟨true, false, 0, 0, 0, 0, 0, 0, 0, false, 0, false, false⟩, []⟩ := by decide
theorem test_sgb_pal_read : replyOf (exec (.sgbPalRd 0 1) (withEngine sgbAfterInit)) = some ⟨.word 0x56B5, []⟩ := by
  decide
theorem test_sgb_grid_reads :
    replyOf (exec (.sgbCuratfRd 0 0) (withEngine sgbAfterInit)) = some ⟨.u2 0, []⟩ ∧
      replyOf (exec (.sgbAtfRd 45 0 0) (withEngine sgbAfterInit)) =
        some ⟨.fault .coordOutOfRange (.triple 45 0 0), []⟩ := by decide
theorem test_sgb_packet_read : replyOf (exec (.sgbPktRd 7 0) (withEngine sgbAfterInit)) =
    some ⟨.fault .coordOutOfRange (.pair 7 0), []⟩ := by decide
theorem test_line_pulse : cursors (p1Step 0 sgbAfterInit) = (true, false, 0, 0, 0, 0, 0) := by decide
theorem test_line_bit_one :
    cursors (p1Step 1 (receiving 0 0 0 0 3)) = (true, false, 1, 0, 0, 0, 1) ∧
      tabGet (p1Step 1 (receiving 0 0 0 0 3)).data 0 0 = 0x80 := by decide
theorem test_line_bit_without_idle : cursors (p1Step 1 (receiving 2 0 0 0 2)) = (true, false, 2, 0, 0, 0, 1) := by
  decide
theorem test_line_desync : cursors (p1Step 0 (receiving 3 0 0 0 3)) = (false, false, 0, 0, 0, 0, 0) := by decide
/-- The last bit of packet 0 whose header 0x22 asks for two packets. -/
theorem test_line_packet_wait :
    cursors (p1Step 2 { receiving 7 15 0 0 3 with data := tabSet sgbAfterInit.data 0 0 0x22 }) =
      (true, true, 0, 0, 1, 2, 2) := by decide
/-- Program C, write 257: MASK_EN 1 completes, with its event. -/
theorem test_mask_en_completes :
    let g := { receiving 7 15 0 0 3 with data := tabSet (tabSet sgbAfterInit.data 0 0 0xB9) 0 1 0x01 }
    cursors (p1Step 2 g) = (false, false, 0, 0, 1, 1, 2) ∧ (p1Step 2 g).freezeScreen = 1 ∧
      (engineWrite Config.reset 2 ⟨g, 0, []⟩).events.map (fun e => (e.cmd, e.npk, e.bytes.take 2)) =
        [(0x17, 1, [0xB9, 0x01])] := by decide
/-- A record whose packet 0 is `d`. -/
def withPacket (d : List Byte) : SgbState :=
  { sgbAfterInit with data := tabOf 7 16 fun p b => if p = 0 then d[b]?.getD 0 else 0 }

/-- Program D, PAL01: words of two different bytes, low byte first. -/
theorem test_pal01 :
    let t := applyCommand (sgbCmdOf 0x00) 0
      (withPacket [0x01, 0x1F, 0x00, 0xE0, 0x03, 0x00, 0x7C, 0x00, 0x00, 0xFF, 0x7F])
    tabGet t.palette 0 1 = 0x03E0 ∧ tabGet t.palette 0 2 = 0x7C00 ∧ tabGet t.palette 1 1 = 0x7FFF ∧
      tabGet t.palette 2 0 = 0x001F ∧ tabGet t.palette 2 1 = 0x56B5 := by decide
/-- Table 2.12 row 18, PAL23. -/
theorem test_pal23 :
    let t := applyCommand (sgbCmdOf 0x01) 0 (withPacket [0x09, 0x00, 0x00, 0x11, 0x11, 0x22, 0x22, 0x33, 0x33,
      0x44, 0x44, 0x55, 0x55, 0x66, 0x66])
    tabGet t.palette 2 2 = 0x2222 ∧ tabGet t.palette 3 3 = 0x6666 ∧ tabGet t.palette 0 0 = 0x0000 := by decide
/-- Table 2.12 row 5, PAL_SET: the palette number 0x0100 is its bytes 00 01. -/
theorem test_pal_set_number :
    palSetNumber (withPacket [0x51, 0x00, 0x01, 0x00, 0x00, 0x00, 0x00, 0x00, 0x00, 0x40]) 0 = 0x100 := by decide
/-- Table 2.11, one byte: SGB_BYTE 0xB9 after a pulse. -/
theorem test_byte_received :
    let g := (engineWrites Config.reset (byteWrites 0xB9) ⟨receiving 0 0 0 0 3, 0, []⟩).sgb
    tabGet g.data 0 0 = 0xB9 ∧ cursors g = (true, false, 0, 1, 0, 0, 3) := by decide +kernel
/-- Table 2.12 rows 11 and 13. -/
theorem test_mode_flags :
    (applyCommand (sgbCmdOf 0x0C) 0 sgbAfterInit).attraction = true ∧
      (applyCommand (sgbCmdOf 0x0D) 0 sgbAfterInit).speedTest = false := by decide
/-- Program E, write 258 and the read after it. -/
theorem test_multiplayer_idle :
    (p1Step 3 { sgbAfterInit with multiplayer := 1, readJoypad := true }).currentJoypad = 1 ∧
      replyOf (exec (.ioRd 0) { withEngine { sgbAfterInit with multiplayer := 1, currentJoypad := 1 } with
        io := [(0, 0x30)] }) = some ⟨.byte 0xFE, []⟩ := by decide

/-! ## Helpers (40_vram_bank_mux.md R170, 30_encoding.md R126, R127; Table 2.4) -/

theorem test_camera : cameraAddr .photo 29 = 0x1F000 ∧ cameraAddr .thumb 1 = 0x3E00 ∧
    flatBank 0x1FE00 = 15 ∧ flatOffset 0x1FE00 = 0x1E00 := by decide
theorem test_assembler :
    assemblerLine (.palWr .obj 8 31) .owner = "PAL_WR 1, 8, 31" ∧
      assemblerLine .sgbInit .observer = "SGB_INIT @observer" := by decide +kernel
theorem test_packet_writes : (pseudoSgbPacket (List.replicate 16 0)).length = 260 := by decide +kernel

/-! ## Witnesses: for each statement with hypotheses, states and operands that meet them -/

/-- A state that waits with one request. -/
def waiting (s : State) (w : Word) (a : Agent) : State := { s with pending := [⟨w, a⟩] }

/-- The reset record after SGB_INIT meets the cursor invariants. -/
theorem witness_engine_invariant : sgbAfterInit.Inv :=
  ⟨by decide, by decide, by decide, by decide, by decide, by decide, by decide, by decide⟩

theorem reset_arrays (m : Mode) (sp : Space) : arrayOk ((start m).space sp) (spaceBytes (start m).cfg sp) := by
  cases sp <;> exact ⟨rfl, rfl⟩

theorem witness_DecodeThenEncode : ∃ w i, decode w = .ok i := ⟨0x0800103C, _, rfl⟩

theorem witness_WordsDecode : ∃ (w : Word) (r : OpRow), r ∈ opcodeMap ∧ w &&& r.mask = r.matchBits :=
  ⟨0xBFF80000, ⟨"SGB_PKT_RD", 0x2F, 0xBC000000, 0xFC07FFFF⟩, by decide, by decide⟩

theorem witness_IllegalWords : ∃ (s : State) (r : Request) (rest : List Request) (e : DecodeError),
    s.pending = r :: rest ∧ decode r.word = .error e :=
  ⟨waiting (start .dmg) 0x04000001 .owner, _, _, _, rfl, rfl⟩

theorem witness_StepPerforms : (∃ (s : State) (r : Request) (rest : List Request) (i : Instr),
    s.pending = r :: rest ∧ decode r.word = .ok i) ∧ State.reset.pending = [] :=
  ⟨⟨waiting (start .dmg) 0x0800103C .owner, _, _, _, rfl, rfl⟩, rfl⟩

theorem witness_EveryRequestTakesOneStep : ∃ (s : State) (r : Request) (rest : List Request),
    s.pending = r :: rest := ⟨waiting (start .dmg) 0 .observer, _, _, rfl⟩

/-- A state with an engine in the middle of a packet and a P1 write waiting. -/
theorem witness_EveryStepKeepsTheInvariant : ∃ s t : State, s.Inv ∧ s.sgbPresent = true ∧ step s = .next t :=
  ⟨waiting (withEngine (receiving 7 15 0 0 3)) 0x28000020 .owner, _,
    ⟨by decide, reset_arrays .dmg,
      fun _ => ⟨by decide, by decide, by decide, by decide, by decide, by decide, by decide, by decide⟩,
      by decide⟩, rfl, rfl⟩

theorem witness_Construction : ∃ (c : Config) (init : InitContents), c.wf = true ∧ init.fits c ∧
    init.vram = [(0x1FFF, 1)] :=
  ⟨{ Config.reset with nEramBanks := 16, sgbLen0Packets := 7 }, ⟨[(0x1FFF, 1)], [(159, 1)], [(0x1FFFF, 1)], [], [], []⟩,
    by decide, fun sp => by cases sp <;> exact ⟨rfl, rfl⟩, rfl⟩

theorem witness_NoRequestWritesTheConfiguration : ∃ s t : State, step s = .next t :=
  ⟨waiting (start .dmg) 0x28000020 .owner, _, rfl⟩

/-- For FaultsArePrecise, RequestsRaiseOnlyTheirFaults. -/
theorem witness_FaultsArePrecise : ∃ (i : Instr) (s t : State) (c : FaultCode) (f : FaultInfo),
    exec i s = .next t ∧ t.reply.resp = .fault c f := ⟨.oamWr 160 1, start .dmg, _, _, _, rfl, rfl⟩

theorem witness_RequestsRaiseOnlyTheirFaults : ∃ (i : Instr) (s t : State) (c : FaultCode) (f : FaultInfo),
    exec i s = .next t ∧ t.reply.resp = .fault c f :=
  ⟨.resolveColor true 2 1, start .dmg, _, _, _, rfl, rfl⟩

theorem witness_FaultLog : ∃ (s t : State) (r : Request) (rest : List Request), s.pending = r :: rest ∧
    step s = .next t ∧ t.reply.resp.isFault = true := ⟨waiting (start .dmg) 0x0C00A000 .owner, _, _, _, rfl, rfl, rfl⟩

theorem witness_OwnerOnly : (∃ (i : Instr) (s : State), ownerOnly i = true ∧ s.port.agent = .observer) ∧
    ∃ (i : Instr) (s t : State), ownerOnly i = false ∧ exec i s = .next t :=
  ⟨⟨.sgbInit, observing (start .dmg), rfl, rfl⟩, ⟨.ioRd 0, observing (start .dmg), _, rfl, rfl⟩⟩

theorem witness_ObserversChangeNothing : ∃ (s t : State) (r : Request) (rest : List Request),
    s.pending = r :: rest ∧ r.agent = .observer ∧ step s = .next t :=
  ⟨waiting (withEngine sgbAfterInit) 0x28000000 .observer, _, _, _, rfl, rfl, rfl⟩

theorem witness_ReadsHaveNoSideEffect : ∃ (i : Instr) (s t : State), ownerOnly i = false ∧ exec i s = .next t :=
  ⟨.rasterSprite 39, start .dmg, _, rfl, rfl⟩

/-- Each clause: the last byte of the array, and an address the mux gives no byte for. -/
theorem witness_BankedStores :
    (∃ t, exec (.vramWr 1 0x1FFF 5) (start .cgbEnabled) = .next t ∧
      vramIndex (start .cgbEnabled).cfg 1 0x1FFF = .ok (.byteAt 0x3FFF)) ∧
    (∃ t, exec (.vramWr 1 0x1FFF 5) (start .dmg) = .next t ∧
      ∀ i, vramIndex (start .dmg).cfg 1 0x1FFF ≠ .ok (.byteAt i)) ∧
    (∃ t, exec (.eramWr 3 0x1FFF 5) (start .dmg) = .next t ∧ eramIndex (start .dmg).cfg 3 0x1FFF = .ok 0x7FFF) ∧
    (∃ t, exec (.eramWr 4 0 5) (start .dmg) = .next t ∧ ∀ i, eramIndex (start .dmg).cfg 4 0 ≠ .ok i) ∧
    (∃ t, exec (.eramfWr 0x7FFF 5) (start .dmg) = .next t ∧ flatIndex (start .dmg).cfg 0x7FFF = .ok 0x7FFF) ∧
    (∃ t, exec (.eramfWr 0x8000 5) (start .dmg) = .next t ∧ ∀ i, flatIndex (start .dmg).cfg 0x8000 ≠ .ok i) :=
  ⟨⟨_, rfl, rfl⟩, ⟨_, rfl, fun _ h => nomatch h⟩, ⟨_, rfl, rfl⟩, ⟨_, rfl, fun _ h => nomatch h⟩, ⟨_, rfl, rfl⟩,
    ⟨_, rfl, fun _ h => nomatch h⟩⟩

theorem witness_IndexedStores :
    (∃ t, exec (.oamWr 159 5) (start .dmg) = .next t ∧ oamByteIndex 159 = .ok 159) ∧
    (∃ t, exec (.oamWr 160 5) (start .dmg) = .next t ∧ ∀ i, oamByteIndex 160 ≠ .ok i) ∧
    (∃ t, exec (.palWr .obj 63 5) (start .dmg) = .next t ∧ palByteIndex 63 = .ok 63) ∧
    (∃ t, exec (.palWr .bg 64 5) (start .dmg) = .next t ∧ ∀ i, palByteIndex 64 ≠ .ok i) ∧
    (∃ t, exec (.ioWr 1 5) (withEngine sgbAfterInit) = .next t ∧ (1 : Byte).toNat ≠ 0) ∧
    (∃ t, exec (.ioWr 0 5) (start .dmg) = .next t ∧ (start .dmg).sgbPresent = false) :=
  ⟨⟨_, rfl, rfl⟩, ⟨_, rfl, fun _ h => nomatch h⟩, ⟨_, rfl, rfl⟩, ⟨_, rfl, fun _ h => nomatch h⟩,
    ⟨_, rfl, by decide⟩, ⟨_, rfl, rfl⟩⟩

/-- A request of each kind that changes its space. -/
theorem witness_EachSpace :
    (after (exec (.vramWr 0 0 1) (start .dmg)) (start .dmg)).vram ≠ (start .dmg).vram ∧
    (after (exec (.oamWr 0 1) (start .dmg)) (start .dmg)).oam ≠ (start .dmg).oam ∧
    (after (exec (.eramWr 0 0 1) (start .dmg)) (start .dmg)).eram ≠ (start .dmg).eram ∧
    (after (exec (.ioWr 0 1) (start .dmg)) (start .dmg)).io ≠ (start .dmg).io ∧
    (after (exec (.palWr .bg 0 1) (start .dmg)) (start .dmg)).bgPal ≠ (start .dmg).bgPal ∧
    (after (exec (.palWr .obj 0 1) (start .dmg)) (start .dmg)).objPal ≠ (start .dmg).objPal ∧
    (after (exec .sgbInit (start .dmg)) (start .dmg)).sgbPresent ≠ (start .dmg).sgbPresent ∧
    (after (exec .sgbInit (start .dmg)) (start .dmg)).sgb.prevSel ≠ (start .dmg).sgb.prevSel := by decide

/-- Each branch of the VRAM mux at its boundary, for an Owner at the port. -/
theorem witness_VramRequests : (start .dmg).port.agent = .owner ∧ 1 < (2 : BitVec 4).toNat ∧
    (1 : BitVec 4).toNat ≤ 1 ∧ 0x1FFF < (0x2000 : BitVec 14).toNat ∧ (0x1FFF : BitVec 14).toNat ≤ 0x1FFF ∧
    ((1 : BitVec 4).toNat = 1 ∧ (start .dmg).cfg.mode = .dmg) ∧
    ¬((1 : BitVec 4).toNat = 1 ∧ (start .gbcCompat).cfg.mode = .dmg) := by decide

theorem witness_IndexedPorts : (start .dmg).port.agent = .owner ∧ (159 : Byte).toNat < 160 ∧
    160 ≤ (160 : Byte).toNat ∧ (255 : Byte).toNat ≠ 0 ∧ (63 : Byte).toNat < 64 ∧ 64 ≤ (64 : Byte).toNat := by decide

theorem witness_EramRequests : (start .dmg).port.agent = .owner ∧
    (start .dmg).cfg.nEramBanks ≤ (4 : BitVec 4).toNat ∧ (3 : BitVec 4).toNat < (start .dmg).cfg.nEramBanks ∧
    0x1FFF < (0x2000 : BitVec 14).toNat ∧ (0x1FFF : BitVec 14).toNat ≤ 0x1FFF := by decide

theorem witness_FlatAddresses : (start .dmg).port.agent = .owner ∧
    (0x7FFF : BitVec 17).toNat / 0x2000 < (start .dmg).cfg.nEramBanks ∧
    (start .dmg).cfg.nEramBanks ≤ (0x8000 : BitVec 17).toNat / 0x2000 := by decide

theorem witness_NextRead :
    (∃ t, vramIndex (start .gbcCompat).cfg 1 0x1FFF = .ok (.byteAt 0x3FFF) ∧
      exec (.vramWr 1 0x1FFF 5) (start .gbcCompat) = .next t ∧ t.reply.resp = .none) ∧
    (∃ t, exec (.oamWr 159 5) (start .dmg) = .next t ∧ t.reply.resp = .none) ∧
    (∃ t, (0x7FFF : BitVec 17).toNat = (3 : BitVec 4).toNat * 0x2000 + (0x1FFF : BitVec 14).toNat ∧
      exec (.eramWr 3 0x1FFF 5) (start .dmg) = .next t ∧ t.reply.resp = .none) ∧
    (∃ t, (0x7FFF : BitVec 17).toNat = (3 : BitVec 4).toNat * 0x2000 + (0x1FFF : BitVec 14).toNat ∧
      (0x1FFF : BitVec 14).toNat ≤ 0x1FFF ∧ exec (.eramfWr 0x7FFF 5) (start .dmg) = .next t ∧
      t.reply.resp = .none) ∧
    (∃ t, (255 : Byte).toNat ≠ 0 ∧ exec (.ioWr 255 5) (start .dmg) = .next t ∧ t.reply.resp = .none) ∧
    (∃ t, exec (.palWr .obj 63 5) (start .dmg) = .next t ∧ t.reply.resp = .none) :=
  ⟨⟨_, rfl, rfl, rfl⟩, ⟨_, rfl, rfl⟩, ⟨_, rfl, rfl, rfl⟩, ⟨_, rfl, by decide, rfl, rfl⟩,
    ⟨_, by decide, rfl, rfl⟩, ⟨_, rfl, rfl⟩⟩

/-- For CgbColors, CompatColors, DmgColors, PaletteRamsUnseen, DmgNeverTouchesBankOne: each mode, and each palette
number where the clauses meet. -/
theorem witness_modes_and_palettes : (start .cgbEnabled).cfg.mode = .cgbEnabled ∧
    (start .gbcCompat).cfg.mode = .gbcCompat ∧ (start .dmg).cfg.mode = .dmg ∧ (0 : BitVec 3).toNat = 0 ∧
    (1 : BitVec 3).toNat = 1 ∧ 1 < (2 : BitVec 3).toNat ∧ 0 < (1 : BitVec 3).toNat ∧ (1 : BitVec 3).toNat ≤ 1 := by
  decide

theorem witness_ResolvedColors :
    (∃ t c, exec (.resolveBgColor 7 3) (start .dmg) = .next t ∧ t.reply.resp = .rgb c) ∧
    ∃ t c, exec (.resolveColor true 7 3) (start .cgbEnabled) = .next t ∧ t.reply.resp = .rgb c :=
  ⟨⟨_, _, rfl, rfl⟩, ⟨_, _, rfl, rfl⟩⟩

theorem witness_SgbColor : (withEngine sgbAfterInit).sgbPresent = true ∧ (19 : BitVec 5).toNat < 20 ∧
    (17 : BitVec 5).toNat < 18 ∧ 20 ≤ (20 : BitVec 5).toNat ∧ 18 ≤ (18 : BitVec 5).toNat := by decide

theorem witness_PaletteRams : (start .gbcCompat).cfg.mode ≠ .cgbEnabled ∧
    (∀ p x, Instr.resolveColor true 1 3 ≠ .palRd p x) ∧
    ∃ t, exec (.resolveColor true 1 3) (start .gbcCompat) = .next t :=
  ⟨by decide, fun _ _ h => Instr.noConfusion h, _, rfl⟩

theorem witness_TileRows : (383 : BitVec 9).toNat < 384 ∧ 384 ≤ (384 : BitVec 9).toNat := by decide

/-- For FlipsMirror, SpriteGrids, SpriteVisibility, RasterLists. -/
theorem witness_sprite_entries : (39 : BitVec 6).toNat < 40 ∧ 40 ≤ (40 : BitVec 6).toNat := by decide

/-- A VRAM that agrees on bank 0 and differs above it. -/
theorem witness_DmgBankOne : (start .dmg).cfg.mode = .dmg ∧
    (∀ a, a < 0x2000 → memGet [(0x2000, 7)] a = (start .dmg).memRead .vram a) ∧
    ∃ t, exec (.decodeTileRow 1 0 0 false false) (start .dmg) = .next t :=
  ⟨rfl, fun a h => by simp [memGet, start, State.memRead, State.space, State.reset, State.construct]; omega, _, rfl⟩

/-- For SgbInit, SgbEnd. -/
theorem witness_owner : (start .dmg).port.agent = .owner := rfl

/-- For SgbScalarAndPaletteReads, SgbGridAndPacketReads: present, and each operand where its clauses meet. -/
theorem witness_SgbReads : (withEngine sgbAfterInit).sgbPresent = true ∧
    ((44 : BitVec 6).toNat < 45 ∧ (19 : BitVec 5).toNat < 20 ∧ (17 : BitVec 5).toNat < 18) ∧
    ¬((45 : BitVec 6).toNat < 45 ∧ (19 : BitVec 5).toNat < 20 ∧ (17 : BitVec 5).toNat < 18) ∧
    ¬((20 : BitVec 5).toNat < 20 ∧ (17 : BitVec 5).toNat < 18) ∧
    ¬((19 : BitVec 5).toNat < 20 ∧ (18 : BitVec 5).toNat < 18) ∧ (6 : BitVec 3).toNat < 7 ∧
    (7 : BitVec 3).toNat = 7 := by decide

theorem witness_AbsentEngine : (start .dmg).sgbPresent = false ∧ (start .dmg).port.agent = .owner ∧
    (waiting (start .dmg) 0xA0000000 .owner).sgbPresent = false ∧
    ∃ t, step (waiting (start .dmg) 0xA0000000 .owner) = .next t ∧ t.sgbPresent = true :=
  ⟨rfl, rfl, rfl, _, rfl, rfl⟩

theorem witness_P1Write : (withEngine sgbAfterInit).port.agent = .owner ∧
    (withEngine sgbAfterInit).sgbPresent = true ∧ (start .dmg).port.agent = .owner ∧
    (start .dmg).sgbPresent = false := by decide

/-- A record that waits between packets. -/
def betweenPackets : SgbState := { receiving 0 0 1 2 3 with waitReset := true }

theorem witness_ResetPulse : sgbAfterInit.sending = false ∧
    (betweenPackets.sending = true ∧ betweenPackets.waitReset = true) ∧
    ((receiving 0 0 0 0 3).sending = true ∧ (receiving 0 0 0 0 3).waitReset = false ∧
      (receiving 0 0 0 0 3).currbit = 0 ∧ (receiving 0 0 0 0 3).currbyte = 0) ∧
    ((receiving 0 1 0 0 3).sending = true ∧ (receiving 0 1 0 0 3).waitReset = false ∧
      ¬((receiving 0 1 0 0 3).currbit = 0 ∧ (receiving 0 1 0 0 3).currbyte = 0)) := by decide

/-- The three kinds of line value R337 names, one at a time. -/
theorem witness_OtherLineEvents :
    ((3 : U2) ≠ 0 ∧ ¬(((3 : U2) = 1 ∨ (3 : U2) = 2) ∧ (receiving 0 0 0 0 3).prevSel = 3 ∧
      (receiving 0 0 0 0 3).sending = true ∧ (receiving 0 0 0 0 3).waitReset = false)) ∧
    ((1 : U2) ≠ 0 ∧ ¬(((1 : U2) = 1 ∨ (1 : U2) = 2) ∧ (receiving 0 0 0 0 0).prevSel = 3 ∧
      (receiving 0 0 0 0 0).sending = true ∧ (receiving 0 0 0 0 0).waitReset = false)) ∧
    ((1 : U2) ≠ 0 ∧ ¬(((1 : U2) = 1 ∨ (1 : U2) = 2) ∧ betweenPackets.prevSel = 3 ∧
      betweenPackets.sending = true ∧ betweenPackets.waitReset = false)) ∧
    ((2 : U2) ≠ 0 ∧ ¬(((2 : U2) = 1 ∨ (2 : U2) = 2) ∧ sgbAfterInit.prevSel = 3 ∧
      sgbAfterInit.sending = true ∧ sgbAfterInit.waitReset = false)) := by decide

/-- The eighth bit of byte 14, and the seventh of byte 15. -/
theorem witness_BitsShift : (receiving 7 14 6 7 3).Inv ∧ (receiving 6 15 0 0 3).Inv ∧
    (receiving 7 14 6 7 3).prevSel = 3 ∧ (receiving 7 14 6 7 3).sending = true ∧
    (receiving 7 14 6 7 3).waitReset = false ∧ ¬((7 : Nat) = 7 ∧ (14 : Nat) = 15) ∧
    ¬((6 : Nat) = 7 ∧ (15 : Nat) = 15) :=
  ⟨⟨by decide, by decide, by decide, by decide, by decide, by decide, by decide, by decide⟩,
    ⟨by decide, by decide, by decide, by decide, by decide, by decide, by decide, by decide⟩,
    rfl, rfl, rfl, by decide, by decide⟩

/-- The eight-bit clause: the first byte of a packet and the last. -/
theorem witness_BitsShift_eight : ((receiving 0 0 0 0 3).Inv ∧ (receiving 0 0 0 0 3).prevSel = 3 ∧
      (receiving 0 0 0 0 3).sending = true ∧ (receiving 0 0 0 0 3).waitReset = false ∧
      (receiving 0 0 0 0 3).currbit = 0) ∧
    ((receiving 0 15 6 7 3).Inv ∧ (receiving 0 15 6 7 3).prevSel = 3 ∧ (receiving 0 15 6 7 3).sending = true ∧
      (receiving 0 15 6 7 3).waitReset = false ∧ (receiving 0 15 6 7 3).currbit = 0) ∧
    ([true, false, false, true, true, true, false, true] : List Bool).length = 8 ∧ (0 : Nat) < 8 ∧ (7 : Nat) < 8 :=
  ⟨⟨⟨by decide, by decide, by decide, by decide, by decide, by decide, by decide, by decide⟩, rfl, rfl, rfl, rfl⟩,
    ⟨⟨by decide, by decide, by decide, by decide, by decide, by decide, by decide, by decide⟩, rfl, rfl, rfl, rfl⟩,
    by decide, by decide, by decide⟩

/-- The last bit of packet 0 of two, with its header in the buffer. -/
theorem witness_PacketCompletion :
    let g := { receiving 7 15 0 0 3 with data := tabSet sgbAfterInit.data 0 0 0x22 }
    g.Inv ∧ g.prevSel = 3 ∧ g.sending = true ∧ g.waitReset = false ∧ g.currbit = 7 ∧ g.currbyte = 15 ∧
      g.currpacket + 1 ≠ packetsOf Config.reset g :=
  ⟨⟨by decide, by decide, by decide, by decide, by decide, by decide, by decide, by decide⟩,
    rfl, rfl, rfl, rfl, rfl, by decide⟩

/-- The last bit of packet 6 of seven, and of a single packet whose header gives length 0. -/
theorem witness_LastPacket :
    ((receiving 7 15 6 7 3).Inv ∧ (receiving 7 15 6 7 3).currpacket + 1 = packetsOf Config.reset (receiving 7 15 6 7 3)) ∧
    ((receiving 7 15 0 0 3).Inv ∧ (receiving 7 15 0 0 3).currpacket + 1 = packetsOf Config.reset (receiving 7 15 0 0 3)) ∧
    (receiving 7 15 6 7 3).prevSel = 3 ∧ (receiving 7 15 6 7 3).sending = true ∧
    (receiving 7 15 6 7 3).waitReset = false ∧ (receiving 7 15 6 7 3).currbit = 7 ∧
    (receiving 7 15 6 7 3).currbyte = 15 :=
  ⟨⟨⟨by decide, by decide, by decide, by decide, by decide, by decide, by decide, by decide⟩, by decide⟩,
    ⟨⟨by decide, by decide, by decide, by decide, by decide, by decide, by decide, by decide⟩, by decide⟩,
    rfl, rfl, rfl, rfl, rfl⟩

theorem witness_PaletteCommands : ((0x03 : BitVec 5), (1 : Nat), (2 : Nat)) ∈
    [((0x00 : BitVec 5), 0, 1), (0x01, 2, 3), (0x02, 0, 3), (0x03, 1, 2)] := by decide

/-- A record whose byte `b` of packet 0 is `v`. -/
def packetByte (b : Nat) (v : Byte) : SgbState := { sgbAfterInit with data := tabSet sgbAfterInit.data 0 b v }

/-- For PalSet and ModeCommands: file 44 is applied, file 45 is not. -/
theorem witness_PalSet :
    ((tabGet (packetByte 9 0xAC).data 0 9).toNat / 128 = 1 ∧ (tabGet (packetByte 9 0xAC).data 0 9).toNat % 64 < 45) ∧
    ¬((tabGet (packetByte 9 0xAD).data 0 9).toNat / 128 = 1 ∧ (tabGet (packetByte 9 0xAD).data 0 9).toNat % 64 < 45) ∧
    (tabGet (packetByte 1 0x2C).data 0 1).toNat % 64 < 45 ∧ 45 ≤ (tabGet (packetByte 1 0x2D).data 0 1).toNat % 64 := by
  decide

theorem witness_RegionEdits : (4 ≤ (4 : BitVec 5).toNat ∧ (7 : BitVec 5).toNat ≤ 7) ∧
    ((0x08 : BitVec 5).toNat ∈ [0x08, 0x09, 0x0E, 0x0F, 0x10, 0x12, 0x13, 0x18] ∨ 0x19 ≤ (0x08 : BitVec 5).toNat) ∧
    0x19 ≤ (0x19 : BitVec 5).toNat := by decide

/-- The P1 write that completes a single packet carries an event. -/
theorem witness_OnlyP1Writes : ∃ t, exec (.ioWr 0 0x20) (withEngine (receiving 7 15 0 0 3)) = .next t ∧
    t.reply.events ≠ [] :=
  ⟨_, rfl, by decide⟩

/-- The multiplayer step's clauses, on the record the line step left. -/
theorem witness_Multiplayer :
    let g (m : U2) (armed : Bool) (sel : U2) :=
      (lineStep Config.reset sel ⟨{ sgbAfterInit with multiplayer := m, readJoypad := armed }, 0, []⟩).sgb
    (g 2 true 3).multiplayer ≠ 1 ∧ (g 2 true 3).multiplayer ≠ 3 ∧ (g 1 false 2).multiplayer = 1 ∧
      (g 1 false 3).readJoypad = false ∧ (g 1 true 3).readJoypad = true ∧ (g 3 true 3).multiplayer = 3 ∧
      (g 3 true 3).readJoypad = true := by decide

theorem witness_P1Read :
    ((withEngine { sgbAfterInit with multiplayer := 3 }).sgbPresent = true ∧
      (withEngine { sgbAfterInit with multiplayer := 3 }).sgb.multiplayer = 3) ∧
    (stored .dmg [(.io, 0, 0x30)]).memRead .io 0 / 16 % 4 = 3 ∧
    ¬((start .dmg).sgbPresent = true) := by decide

/-- One packet with header 0xB9, and two packets with header 0x22, from the record after SGB_INIT. -/
theorem witness_CompleteTransfers :
    Config.reset.wf = true ∧ sgbAfterInit.Inv ∧ sgbAfterInit.sending = false ∧
    (∃ ds : List (List Byte), (∀ d ∈ ds, d.length = 16) ∧ ds = (0xB9 :: List.replicate 15 1) :: [] ∧
      ds.length = (if (0xB9 : Byte).toNat % 8 ≠ 0 then (0xB9 : Byte).toNat % 8 else Config.reset.sgbLen0Packets)) ∧
    (∃ ds : List (List Byte), (∀ d ∈ ds, d.length = 16) ∧
      ds = (0x22 :: List.replicate 15 1) :: [List.replicate 16 0xAA] ∧
      ds.length = (if (0x22 : Byte).toNat % 8 ≠ 0 then (0x22 : Byte).toNat % 8 else Config.reset.sgbLen0Packets)) :=
  ⟨by decide, witness_engine_invariant, rfl, ⟨_, by decide, rfl, by decide⟩, ⟨_, by decide, rfl, by decide⟩⟩

theorem witness_CameraSlots : (0 : Nat) < 30 ∧ (29 : Nat) < 30 := by decide

end Sys2Proof.Tests
end

section
/-! PROOFS. All that one request and one step can do: a request open to both agents answers a response computed from the
hardware alone, an Owner-only request stores, and either raises a fault. From these: no request writes the
configuration, and the fault log holds exactly the faults. -/

namespace Sys2Proof.Machine

/-! ## The fault log of a state -/

/-- The state with its fault log replaced. -/
def State.withLog (s : State) (l : List FaultEntry) : State := { s with faultLog := l }

theorem withLog_memWrite (s : State) (l : List FaultEntry) (sp : Space) (i : Nat) (v : Byte) :
    (s.withLog l).memWrite sp i v = (s.memWrite sp i v).withLog l := by cases sp <;> rfl

theorem withLog_vramPut (s : State) (l : List FaultEntry) (p : VramPlace) (v : Byte) :
    (s.withLog l).vramPut p v = (s.vramPut p v).withLog l := by cases p <;> rfl

theorem withLog_p1Write (s : State) (l : List FaultEntry) (v : Byte) :
    (s.withLog l).p1Write v = ((s.p1Write v).1.withLog l, (s.p1Write v).2) := by
  cases h : s.sgbPresent with
  | true =>
    rw [p1Write_present h, p1Write_present (s := s.withLog l) h]
    rfl
  | false => rw [p1Write_absent h, p1Write_absent (s := s.withLog l) h]

theorem withLog_ioWrite (s : State) (l : List FaultEntry) (index v : Byte) :
    (s.withLog l).ioWrite index v = ((s.ioWrite index v).1.withLog l, (s.ioWrite index v).2) := by
  simp only [State.ioWrite, withLog_memWrite]
  split
  · exact withLog_p1Write _ l v
  · rfl

/-- The log is no hardware. -/
theorem sameHardware_withLog (s : State) (l : List FaultEntry) : sameHardware s (s.withLog l) :=
  ⟨rfl, fun sp _ => by cases sp <;> rfl, fun sp => by cases sp <;> rfl, rfl, rfl, rfl⟩

/-- A state with the same hardware is the state itself with other bookkeeping. -/
theorem eq_of_sameHardware {s t : State} (h : sameHardware s t) :
    t = { s with index := t.index, faultLog := t.faultLog, pending := t.pending, port := t.port, reply := t.reply } := by
  obtain ⟨hcfg, -, harr, hpresent, hsgb, hdraws⟩ := h
  have hvram : t.vram = s.vram := harr .vram
  have hoam : t.oam = s.oam := harr .oam
  have heram : t.eram = s.eram := harr .eram
  have hio : t.io = s.io := harr .io
  have hbg : t.bgPal = s.bgPal := harr .bgPal
  have hobj : t.objPal = s.objPal := harr .objPal
  rw [← hcfg, ← hvram, ← hoam, ← heram, ← hio, ← hbg, ← hobj, ← hpresent, ← hsgb, ← hdraws]

/-! ## Requests that read -/

/-- A computed response is a fault only by being raised (30_encoding.md R125). -/
def noFaultValue (r : Except SpecFault Response) : Prop := ∀ v, r = .ok v → v.isFault = false

theorem noFaultValue_ok {v : Response} (h : v.isFault = false) : noFaultValue (.ok v) := by
  rintro _ ⟨⟩
  exact h

theorem noFaultValue_bind {α : Type} (r : Except SpecFault α) {k : α → Except SpecFault Response}
    (h : ∀ a, noFaultValue (k a)) : noFaultValue (r.bind k) := by
  cases r with
  | ok a => exact h a
  | error f => rintro _ ⟨⟩

theorem noFaultValue_map {α : Type} (r : Except SpecFault α) {mk : α → Response}
    (h : ∀ a, (mk a).isFault = false) : noFaultValue (r.map mk) := by
  cases r with
  | ok a => exact noFaultValue_ok (h a)
  | error f => rintro _ ⟨⟩

/-- A request answers the response `f` computes, and `f` sees the hardware only: not the log, the port or the
index. -/
structure AnswersFromHardware (run : State → Result) (f : State → Except SpecFault Response) : Prop where
  run_eq : ∀ s, run s = answer s (f s)
  noFault : ∀ s, noFaultValue (f s)
  hardware : ∀ s t, sameHardware s t → f t = f s

theorem AnswersFromHardware.of_eq {run : State → Result} {f : State → Except SpecFault Response}
    (hrun : ∀ s, run s = answer s (f s)) (hno : ∀ s, noFaultValue (f s))
    (hcontrol : ∀ s index faultLog pending port reply,
      f { s with index := index, faultLog := faultLog, pending := pending, port := port, reply := reply } = f s) :
    AnswersFromHardware run f :=
  ⟨hrun, hno, fun s t h => by rw [eq_of_sameHardware h, hcontrol]⟩

/-- Every request open to both agents reads the hardware and writes none. -/
theorem exec_answersFromHardware {i : Instr} (h : ownerOnly i = false) :
    ∃ f, AnswersFromHardware (exec i) f := by
  cases i
  case vramWr | oamWr | eramWr | eramfWr | ioWr | palWr | sgbInit | sgbEnd => cases h
  case ioRd index =>
    exact ⟨fun s => .ok (.byte (s.ioRead index)),
      .of_eq (fun _ => rfl) (fun _ => noFaultValue_ok rfl) fun _ _ _ _ _ _ => rfl⟩
  case composePixel bgci bgpri objci objpri =>
    exact ⟨fun s => .ok (.layer (s.selectLayer bgci bgpri objci objpri)),
      .of_eq (fun _ => rfl) (fun _ => noFaultValue_ok rfl) fun _ _ _ _ _ _ => rfl⟩
  case vramRd | oamRd | eramRd | eramfRd | palRd | resolveColor | resolveBgColor | resolveSgbColor | decodeTileRow
      | decodeSprite | spriteVisible | sgbStatus | sgbPalRd | sgbSnespalRd =>
    exact ⟨_, .of_eq (fun _ => rfl) (fun _ => noFaultValue_map _ fun _ => rfl) fun _ _ _ _ _ _ => rfl⟩
  case rasterSprite =>
    exact ⟨_, .of_eq (fun _ => rfl)
      (fun _ => noFaultValue_bind _ fun _ => noFaultValue_map _ fun _ => rfl) fun _ _ _ _ _ _ => rfl⟩
  case sgbAtfRd | sgbCuratfRd | sgbPktRd =>
    refine ⟨_, .of_eq (fun _ => rfl) (fun _ => ?_) fun _ _ _ _ _ _ => rfl⟩
    exact noFaultValue_bind _ fun _ => noFaultValue_bind _ fun _ => noFaultValue_ok rfl

/-! ## Requests that store -/

/-- The fields no request's meaning writes, and the log, which only a fault writes. -/
structure sameBookkeeping (s t : State) : Prop where
  cfg : t.cfg = s.cfg
  index : t.index = s.index
  faultLog : t.faultLog = s.faultLog
  pending : t.pending = s.pending
  port : t.port = s.port

/-- A storing request with its events: the state it leaves, or its fault. -/
def deliver (s : State) (r : Except SpecFault (State × List SgbCommand)) : Result :=
  match r with
  | .ok (u, events) => .next (u.respondWith .none events)
  | .error f => .next (s.raise f)

/-- A commit delivers no event. -/
theorem commit_map_eq_deliver {α : Type} (s : State) (r : Except SpecFault α) (put : α → State) :
    commit s (r.map put) = deliver s (r.map fun a => (put a, [])) := by cases r <;> rfl

/-- A store writes no bookkeeping and does not see the log: replacing the log before it is replacing it after. -/
structure LeavesBookkeeping (put : State → State × List SgbCommand) : Prop where
  keeps : ∀ s, sameBookkeeping s (put s).1
  withLog : ∀ s l, put (s.withLog l) = ((put s).1.withLog l, (put s).2)

theorem leavesBookkeeping_memWrite (sp : Space) (i : Nat) (v : Byte) :
    LeavesBookkeeping fun s => (s.memWrite sp i v, []) :=
  ⟨fun s => by constructor <;> simp, fun s l => by rw [withLog_memWrite]⟩

theorem leavesBookkeeping_vramPut (p : VramPlace) (v : Byte) :
    LeavesBookkeeping fun s => (s.vramPut p v, []) := by
  cases p with
  | absent => exact ⟨fun _ => ⟨rfl, rfl, rfl, rfl, rfl⟩, fun _ _ => rfl⟩
  | byteAt i => exact leavesBookkeeping_memWrite .vram i v

theorem ioWrite_sameBookkeeping (s : State) (index v : Byte) : sameBookkeeping s (s.ioWrite index v).1 := by
  unfold State.ioWrite
  split
  · obtain ⟨g, n, hp1, -⟩ := p1Write_frame (s.memWrite .io index.toNat v) v
    simp only [hp1]
    constructor <;> simp
  · constructor <;> simp

theorem leavesBookkeeping_ioWrite (index v : Byte) : LeavesBookkeeping fun s => s.ioWrite index v :=
  ⟨fun s => ioWrite_sameBookkeeping s index v, fun s l => withLog_ioWrite s l index v⟩

/-- An Owner-only request: it denies an Observer; for the Owner it finds, from the configuration and its operands
alone, a fault or the place `a` of a store. -/
structure StoresForOwner {α : Type} (op : BitVec 6) (run : State → Result) (place : Config → Except SpecFault α)
    (put : α → State → State × List SgbCommand) : Prop where
  run_eq : ∀ s, run s = asOwner op s (deliver s ((place s.cfg).map fun a => put a s))
  leaves : ∀ a, LeavesBookkeeping (put a)

/-- An Owner-only request with no event. -/
theorem StoresForOwner.of_commit {α : Type} {op : BitVec 6} {run : State → Result}
    {place : Config → Except SpecFault α} {put : α → State → State}
    (hrun : ∀ s, run s = asOwner op s (commit s ((place s.cfg).map fun a => put a s)))
    (hput : ∀ a, LeavesBookkeeping fun s => (put a s, [])) :
    StoresForOwner op run place fun a s => (put a s, []) :=
  ⟨fun s => by rw [hrun, commit_map_eq_deliver], hput⟩

section
variable {α : Type} {op : BitVec 6} {run : State → Result} {place : Config → Except SpecFault α}
  {put : α → State → State × List SgbCommand} {s t : State}

theorem StoresForOwner.run_ok (hk : StoresForOwner op run place put) (ha : s.port.agent = .owner) {a : α}
    (hp : place s.cfg = .ok a) : run s = .next ((put a s).1.respondWith .none (put a s).2) := by
  rw [hk.run_eq, asOwner_owner ha, hp]
  rfl

theorem StoresForOwner.run_error (hk : StoresForOwner op run place put) (ha : s.port.agent = .owner) {f : SpecFault}
    (hp : place s.cfg = .error f) : run s = .next (s.raise f) := by
  rw [hk.run_eq, asOwner_owner ha, hp]
  rfl

theorem StoresForOwner.run_observer (hk : StoresForOwner op run place put) (ha : s.port.agent = .observer) :
    run s = .next (s.raise ⟨.accessDenied, .num op.toNat⟩) := by rw [hk.run_eq, asOwner_observer ha]

/-- All an Owner-only request can do. -/
theorem StoresForOwner.cases (hk : StoresForOwner op run place put) (h : run s = .next t) :
    (s.port.agent = .owner ∧ ∃ a, place s.cfg = .ok a ∧ t = (put a s).1.respondWith .none (put a s).2) ∨
    (s.port.agent = .owner ∧ ∃ f, place s.cfg = .error f ∧ t = s.raise f) ∨
    (s.port.agent = .observer ∧ t = s.raise ⟨.accessDenied, .num op.toNat⟩) := by
  cases ha : s.port.agent with
  | owner =>
    cases hp : place s.cfg with
    | ok a => exact .inl ⟨rfl, a, rfl, by simpa [hk.run_ok ha hp] using h.symm⟩
    | error f => exact .inr (.inl ⟨rfl, f, rfl, by simpa [hk.run_error ha hp] using h.symm⟩)
  | observer => exact .inr (.inr ⟨rfl, by simpa [hk.run_observer ha] using h.symm⟩)

end

/-- Every Owner-only request is a store guarded by the agent check (30_encoding.md R124, 60_exceptions.md R411). -/
theorem exec_storesForOwner {i : Instr} (h : ownerOnly i = true) :
    ∃ (α : Type) (place : Config → Except SpecFault α) (put : α → State → State × List SgbCommand),
      StoresForOwner (opcodeOf i) (exec i) place put := by
  cases i
  case vramWr bank addr data =>
    exact ⟨_, fun c => vramIndex c bank.toNat addr.toNat, _,
      .of_commit (fun _ => rfl) fun p => leavesBookkeeping_vramPut p data⟩
  case oamWr index data =>
    exact ⟨_, fun _ => oamByteIndex index, _, .of_commit (fun _ => rfl) fun i => leavesBookkeeping_memWrite .oam i data⟩
  case eramWr bank addr data =>
    exact ⟨_, fun c => eramIndex c bank.toNat addr.toNat, _,
      .of_commit (fun _ => rfl) fun i => leavesBookkeeping_memWrite .eram i data⟩
  case eramfWr faddr data =>
    exact ⟨_, fun c => flatIndex c faddr, _, .of_commit (fun _ => rfl) fun i => leavesBookkeeping_memWrite .eram i data⟩
  case palWr sel index data =>
    exact ⟨_, fun _ => palByteIndex index, _,
      .of_commit (fun _ => rfl) fun i => leavesBookkeeping_memWrite (palSpace sel) i data⟩
  case ioWr index data =>
    exact ⟨Unit, fun _ => .ok (), fun _ s => s.ioWrite index data, fun _ => rfl,
      fun _ => leavesBookkeeping_ioWrite index data⟩
  case sgbInit =>
    exact ⟨Unit, fun _ => .ok (), fun _ s => ({ s with sgbPresent := true, sgb := sgbAfterInit }, []), fun _ => rfl,
      fun _ => ⟨fun _ => ⟨rfl, rfl, rfl, rfl, rfl⟩, fun _ _ => rfl⟩⟩
  case sgbEnd =>
    exact ⟨Unit, fun _ => .ok (), fun _ s => ({ s with sgbPresent := false }, []), fun _ => rfl,
      fun _ => ⟨fun _ => ⟨rfl, rfl, rfl, rfl, rfl⟩, fun _ _ => rfl⟩⟩
  all_goals cases h

/-! ## All a request and a step can do -/

/-- All one request can do: respond with a value, store for the Owner, or raise a fault. -/
theorem exec_cases {i : Instr} {s t : State} (h : exec i s = .next t) :
    (ownerOnly i = false ∧ ∃ v, v.isFault = false ∧ t = s.respond v) ∨
    (ownerOnly i = true ∧ s.port.agent = .owner ∧ ∃ u ev, sameBookkeeping s u ∧ t = u.respondWith .none ev) ∨
    ∃ f, t = s.raise f := by
  cases hown : ownerOnly i with
  | false =>
    obtain ⟨f, hf⟩ := exec_answersFromHardware hown
    rw [hf.run_eq] at h
    obtain ⟨v, hv, rfl⟩ | ⟨e, -, rfl⟩ := answer_cases h
    · exact .inl ⟨rfl, v, hf.noFault s v hv, rfl⟩
    · exact .inr (.inr ⟨e, rfl⟩)
  | true =>
    obtain ⟨α, place, put, hk⟩ := exec_storesForOwner hown
    obtain ⟨ha, a, -, rfl⟩ | ⟨-, f, -, rfl⟩ | ⟨-, rfl⟩ := hk.cases h
    · exact .inr (.inl ⟨rfl, ha, _, _, (hk.leaves a).keeps s, rfl⟩)
    · exact .inr (.inr ⟨f, rfl⟩)
    · exact .inr (.inr ⟨_, rfl⟩)

/-- With another log a request does the same, up to the log: nothing reads it (10_state.md R57). -/
theorem exec_withLog {i : Instr} {s t : State} (l : List FaultEntry) (h : exec i s = .next t) :
    ∃ l', exec i (s.withLog l) = .next (t.withLog l') := by
  cases hown : ownerOnly i with
  | false =>
    obtain ⟨f, hf⟩ := exec_answersFromHardware hown
    rw [hf.run_eq] at h
    rw [hf.run_eq, hf.hardware _ _ (sameHardware_withLog s l)]
    obtain ⟨v, hv, rfl⟩ | ⟨e, he, rfl⟩ := answer_cases h
    · rw [hv]
      exact ⟨l, rfl⟩
    · rw [he]
      exact ⟨l ++ [faultEntry s.port e], rfl⟩
  | true =>
    obtain ⟨α, place, put, hk⟩ := exec_storesForOwner hown
    obtain ⟨ha, a, hp, rfl⟩ | ⟨ha, f, hp, rfl⟩ | ⟨ha, rfl⟩ := hk.cases h
    · refine ⟨l, ?_⟩
      rw [hk.run_ok (s := s.withLog l) ha hp, (hk.leaves a).withLog]
      rfl
    · exact ⟨l ++ [faultEntry s.port f], hk.run_error (s := s.withLog l) ha hp⟩
    · exact ⟨l ++ [faultEntry s.port _], hk.run_observer (s := s.withLog l) ha⟩

theorem exec_cfg {i : Instr} {s t : State} (h : exec i s = .next t) : t.cfg = s.cfg := by
  obtain ⟨-, v, -, rfl⟩ | ⟨-, -, u, ev, hu, rfl⟩ | ⟨f, rfl⟩ := exec_cases h
  · rfl
  · exact hu.cfg
  · rfl

theorem respond_logFollowsReply (s : State) {v : Response} (hv : v.isFault = false) :
    logFollowsReply s (s.respond v) where
  fault c f hr := by
    obtain rfl : v = .fault c f := hr
    cases hv
  normal _ := rfl

theorem store_logFollowsReply {s u : State} (h : sameBookkeeping s u) (ev : List SgbCommand) :
    logFollowsReply s (u.respondWith .none ev) where
  fault _ _ hr := by cases hr
  normal _ := h.faultLog

theorem raise_logFollowsReply (s : State) (f : SpecFault) : logFollowsReply s (s.raise f) where
  fault _ _ hr := by
    cases hr
    rfl
  normal hr := by cases hr

theorem exec_logFollowsReply {i : Instr} {s t : State} (h : exec i s = .next t) : logFollowsReply s t := by
  obtain ⟨-, v, hv, rfl⟩ | ⟨-, -, u, ev, hu, rfl⟩ | ⟨f, rfl⟩ := exec_cases h
  · exact respond_logFollowsReply s hv
  · exact store_logFollowsReply hu ev
  · exact raise_logFollowsReply s f

/-- All performing a word can do (30_encoding.md R111). -/
theorem perform_cases {r : Request} {s t : State} (h : perform r s = .next t) :
    (∃ i, decode r.word = .ok i ∧ exec i s = .next t) ∨
    ∃ e, decode r.word = .error e ∧ t = s.raise (illegalRequest r.word) := by
  unfold perform at h
  cases hd : decode r.word with
  | ok i => exact .inl ⟨i, rfl, by simpa [hd] using h⟩
  | error e => exact .inr ⟨e, rfl, by simpa [hd] using h.symm⟩

theorem step_nil {s : State} (h : s.pending = []) : step s = .next s := by simp [step, fetch_nil h]

theorem step_cons {s : State} {r : Request} {rest : List Request} (h : s.pending = r :: rest) :
    step s = perform r { s with pending := rest, port := r, index := s.index + 1 } := by simp [step, fetch_cons h]

theorem perform_cfg {r : Request} {s t : State} (h : perform r s = .next t) : t.cfg = s.cfg := by
  obtain ⟨i, -, h⟩ | ⟨e, -, rfl⟩ := perform_cases h
  · exact exec_cfg h
  · rfl

theorem perform_logFollowsReply {r : Request} {s t : State} (h : perform r s = .next t) : logFollowsReply s t := by
  obtain ⟨i, -, h⟩ | ⟨e, -, rfl⟩ := perform_cases h
  · exact exec_logFollowsReply h
  · exact raise_logFollowsReply s _

theorem step_cfg {s t : State} (h : step s = .next t) : t.cfg = s.cfg := by
  cases hp : s.pending with
  | nil =>
    rw [step_nil hp] at h
    cases h
    rfl
  | cons r rest =>
    rw [step_cons hp] at h
    rw [perform_cfg h]

/-! ## The obligations -/

/-- Settles O11: a performed request responds, stores or raises a fault, and none of the three writes the
configuration. -/
theorem noRequestWritesTheConfiguration : Obligations.NoRequestWritesTheConfiguration := by
  unfold Obligations.NoRequestWritesTheConfiguration
  exact fun _ _ h => step_cfg h

/-- Settles O13: only raising a fault answers a fault response, and only it writes the log; what a request computes
does not see the log. -/
theorem faultLogHoldsExactlyTheFaults : Obligations.FaultLogHoldsExactlyTheFaults := by
  unfold Obligations.FaultLogHoldsExactlyTheFaults
  refine ⟨fun s t r rest hp h => ?_, fun i s t l h => ?_, fun _ _ => rfl⟩
  · rw [step_cons hp] at h
    obtain ⟨hfault, hnormal⟩ := perform_logFollowsReply h
    exact ⟨hfault, hnormal⟩
  · obtain ⟨l', h'⟩ := exec_withLog l h
    exact ⟨t.withLog l', h', rfl, sameHardware_withLog t l'⟩

end Sys2Proof.Machine
end

section
/-! PROOFS. A word is a request exactly when its opcode and its reserved bits are those of a row of the opcode map
(30_encoding.md R111, R123); any other word is answered by IllegalRequest and changes nothing. -/

namespace Sys2Proof

/-! ## Masks and fields of a word -/

/-- A word agrees with a placed value under the field's mask exactly when its field holds the value. -/
theorem and_place_allOnes_eq_place_iff (w : Word) {lo n : Nat} (h : lo + n ≤ 32) (v : BitVec n) :
    w &&& place lo (BitVec.allOnes n) = place lo v ↔ fieldAt w lo n = v := by
  constructor
  · intro hw
    refine BitVec.eq_of_getLsbD_eq fun k hk => ?_
    have hbit := congrArg (BitVec.getLsbD · (lo + k)) hw
    have hlt : lo + k < 32 := by omega
    simpa [fieldAt, getLsbD_place, hk, hlt, -BitVec.getLsbD_eq_getElem] using hbit
  · rintro rfl
    refine BitVec.eq_of_getLsbD_eq fun k hk => ?_
    by_cases hlo : lo ≤ k
    · by_cases hn : k - lo < n <;> simp [fieldAt, getLsbD_place, hk, hlo, hn, -BitVec.getLsbD_eq_getElem]
    · simp [getLsbD_place, hlo, -BitVec.getLsbD_eq_getElem]

theorem resZero_iff (w : Word) {lo n : Nat} (h : lo + n ≤ 32) :
    resZero w lo n = true ↔ w &&& place lo (BitVec.allOnes n) = 0#32 := by
  have hzero : place lo 0#n = 0#32 := by simp [place]
  rw [← hzero, and_place_allOnes_eq_place_iff w h, resZero, decide_eq_true_iff, fieldAt, BitVec.ofNat_eq_ofNat]

/-- Agreement under a mask in two parts, where `b` has no bit in the second. -/
theorem and_or_eq_iff {n : Nat} {w m m' b : BitVec n} (hb : b &&& m' = 0#n) :
    w &&& (m ||| m') = b ↔ w &&& m = b ∧ w &&& m' = 0#n := by
  have habsorb : (m ||| m') &&& m' = m' := by
    ext i hi
    cases hbit : m'[i] <;> simp [hbit]
  rw [BitVec.and_or_distrib_left]
  constructor
  · intro h
    have hm' : w &&& m' = 0#n := by
      rw [← hb, ← h, ← BitVec.and_or_distrib_left, BitVec.and_assoc, habsorb]
    refine ⟨?_, hm'⟩
    rwa [hm', BitVec.or_zero] at h
  · rintro ⟨hm, hm'⟩
    rw [hm, hm', BitVec.or_zero]

/-- Two groups of bits are clear when their union is. -/
theorem and_eq_zero_and_iff {n : Nat} (w m m' : BitVec n) :
    w &&& m = 0#n ∧ w &&& m' = 0#n ↔ w &&& (m ||| m') = 0#n := (and_or_eq_iff BitVec.zero_and).symm

/-! ## Rows of the opcode map -/

/-- The bits a row fixes besides the opcode: the reserved ones. -/
def OpRow.reserved (r : OpRow) : Word := r.mask &&& 0x03FFFFFF

/-- Every row fixes the whole opcode, and of the other bits only that they are 0. -/
theorem opcodeMap_columns : ∀ r ∈ opcodeMap,
    r.mask = place 26 (BitVec.allOnes 6) ||| r.reserved ∧ r.matchBits = place 26 r.op ∧
      r.matchBits &&& r.reserved = 0 := by decide

/-- A word matches a row when it has the row's opcode and no reserved bit set. -/
theorem matches_row_iff (w : Word) {r : OpRow} (hr : r ∈ opcodeMap) :
    w &&& r.mask = r.matchBits ↔ (fieldAt w 26 6).toNat = r.op.toNat ∧ w &&& r.reserved = 0#32 := by
  obtain ⟨hmask, hbits, hdisj⟩ := opcodeMap_columns r hr
  rw [hmask, and_or_eq_iff hdisj, hbits, and_place_allOnes_eq_place_iff w (by decide), BitVec.toNat_inj]

/-! ## The words that decode -/

theorem ifReserved_ok_iff (ok : Bool) (i : Instr) : (∃ j, ifReserved ok i = .ok j) ↔ ok = true := by
  cases ok <;> simp [ifReserved]

/-- The decoder's arms against the rows: an arm checks the reserved bits of the one row with its opcode. -/
theorem decode_ok_iff (w : Word) : (∃ i, decode w = .ok i) ↔
    ∃ r ∈ opcodeMap, (fieldAt w 26 6).toNat = r.op.toNat ∧ w &&& r.reserved = 0#32 := by
  simp only [opcodeMap, OpRow.reserved, List.cons_append, List.nil_append, List.exists_mem_cons_iff, List.not_mem_nil,
    false_and, exists_false, or_false, BitVec.reduceAnd, BitVec.ofNat_eq_ofNat, BitVec.reduceToNat]
  unfold decode
  split
  -- The last arm has the opcode of no row; in every other arm only the row with its opcode is left.
  case h_29 => grind
  all_goals simp [ifReserved_ok_iff, resZero_iff, place, and_eq_zero_and_iff, *]

theorem decode_ok_iff_matches_row (w : Word) :
    (∃ i, decode w = .ok i) ↔ ∃ r ∈ opcodeMap, w &&& r.mask = r.matchBits :=
  (decode_ok_iff w).trans (exists_congr fun _ => and_congr_right fun hr => (matches_row_iff w hr).symm)

theorem decode_error_iff_not_ok (w : Word) : (∃ e, decode w = .error e) ↔ ¬∃ i, decode w = .ok i := by
  cases decode w <;> simp

end Sys2Proof

namespace Sys2Proof.Machine

/-! ## The answer to a word that is no request -/

/-- Taking a request from the queue changes no hardware. -/
theorem sameHardware_fetched (s : State) (r : Request) (rest : List Request) :
    sameHardware s { s with pending := rest, port := r, index := s.index + 1 } :=
  ⟨rfl, fun sp _ => by cases sp <;> rfl, fun sp => by cases sp <;> rfl, rfl, rfl, rfl⟩

/-- Raising a fault changes no hardware (60_exceptions.md R404). -/
theorem sameHardware.raise {s t : State} (h : sameHardware s t) (f : SpecFault) : sameHardware s (t.raise f) where
  cfg := h.cfg
  bytes sp a := (raise_memRead t f sp a).trans (h.bytes sp a)
  arrays sp := (raise_space t f sp).trans (h.arrays sp)
  present := h.present
  sgb := h.sgb
  draws := h.draws

theorem step_of_decode_error {s : State} {r : Request} {rest : List Request} {e : DecodeError}
    (hp : s.pending = r :: rest) (he : decode r.word = .error e) :
    step s = .next
      (State.raise { s with pending := rest, port := r, index := s.index + 1 } (illegalRequest r.word)) := by
  rw [step_cons hp, perform, he]

/-! ## The obligation -/

/-- Settles O5: raising IllegalRequest is all such a step does, and an arm of the decoder accepts a word exactly when
the row with its opcode does. -/
theorem illegalWordsFaultAndChangeNothing : Obligations.IllegalWordsFaultAndChangeNothing := by
  unfold Obligations.IllegalWordsFaultAndChangeNothing
  refine ⟨fun s r rest e hp he => ?_, fun w => ?_, rfl⟩
  · exact ⟨_, step_of_decode_error hp he, rfl, (sameHardware_fetched s r rest).raise _, rfl⟩
  · rw [decode_error_iff_not_ok, decode_ok_iff_matches_row]
    simp

end Sys2Proof.Machine
end

section
/-! PROOFS. The banked memory ports, P1 and the camera's addresses (40_vram_bank_mux.md): a read and a write through the
same place check answer the same fault, or reach the same byte. -/

namespace Sys2Proof.Machine

/-! ## A memory port -/

/-- A read request and an Owner-only write request of one byte, which find its place by the same check. -/
structure MemoryPort {α : Type} (op : BitVec 6) (rd wr : State → Result) (place : Config → Except SpecFault α)
    (get : State → α → Byte) (put : α → State → State) : Prop where
  read : ∀ s, rd s = answer s ((place s.cfg).map fun a => .byte (get s a))
  write : StoresForOwner op wr place fun a s => (put a s, [])

section
variable {α : Type} {op : BitVec 6} {rd wr : State → Result} {place : Config → Except SpecFault α}
  {get : State → α → Byte} {put : α → State → State} {s : State}

/-- A port whose place check passes reaches its place. -/
theorem MemoryPort.run_ok (h : MemoryPort op rd wr place get put) {a : α} (hp : place s.cfg = .ok a) :
    rd s = .next (s.respond (.byte (get s a))) ∧
      (s.port.agent = .owner → wr s = .next ((put a s).respond .none)) := by
  refine ⟨?_, fun ha => h.write.run_ok ha hp⟩
  rw [h.read, hp]
  rfl

/-- A port whose place check fails raises its fault, reading or writing. -/
theorem MemoryPort.run_error (h : MemoryPort op rd wr place get put) {f : SpecFault} (hp : place s.cfg = .error f) :
    rd s = .next (s.raise f) ∧ (s.port.agent = .owner → wr s = .next (s.raise f)) := by
  refine ⟨?_, fun ha => h.write.run_error ha hp⟩
  rw [h.read, hp]
  rfl

end

theorem vram_memoryPort (bank : BitVec 4) (addr : BitVec 14) (data : Byte) :
    MemoryPort 0x02 (exec (.vramRd bank addr)) (exec (.vramWr bank addr data))
      (fun c => vramIndex c bank.toNat addr.toNat) State.vramAt (fun p s => s.vramPut p data) :=
  ⟨fun _ => rfl, .of_commit (fun _ => rfl) fun p => leavesBookkeeping_vramPut p data⟩

theorem eram_memoryPort (bank : BitVec 4) (addr : BitVec 14) (data : Byte) :
    MemoryPort 0x06 (exec (.eramRd bank addr)) (exec (.eramWr bank addr data))
      (fun c => eramIndex c bank.toNat addr.toNat) (fun s i => s.memRead .eram i)
      (fun i s => s.memWrite .eram i data) :=
  ⟨fun _ => rfl, .of_commit (fun _ => rfl) fun i => leavesBookkeeping_memWrite .eram i data⟩

theorem eramf_memoryPort (faddr : BitVec 17) (data : Byte) :
    MemoryPort 0x08 (exec (.eramfRd faddr)) (exec (.eramfWr faddr data))
      (fun c => flatIndex c faddr) (fun s i => s.memRead .eram i) (fun i s => s.memWrite .eram i data) :=
  ⟨fun _ => rfl, .of_commit (fun _ => rfl) fun i => leavesBookkeeping_memWrite .eram i data⟩

/-! ## The place checks, branch by branch -/

theorem bank1Absent_iff (c : Config) (bank : Nat) : bank1Absent c bank = true ↔ bank = 1 ∧ c.mode = .dmg := by
  simp [bank1Absent]

theorem vramIndex_bankOutOfRange {c : Config} {bank addr : Nat} (hb : 1 < bank) :
    vramIndex c bank addr = .error ⟨.bankOutOfRange, .num bank⟩ := if_pos hb

theorem vramIndex_addrOutOfRange {c : Config} {bank addr : Nat} (hb : bank ≤ 1) (ha : 0x1FFF < addr) :
    vramIndex c bank addr = .error ⟨.addrOutOfRange, .num addr⟩ := by
  rw [vramIndex, if_neg (by omega), if_pos ha]

theorem vramIndex_absent {c : Config} {bank addr : Nat} (hb : bank ≤ 1) (ha : addr ≤ 0x1FFF)
    (h : bank = 1 ∧ c.mode = .dmg) : vramIndex c bank addr = .ok .absent := by
  rw [vramIndex_ok hb ha, if_pos ((bank1Absent_iff c bank).mpr h)]

theorem vramIndex_byteAt {c : Config} {bank addr : Nat} (hb : bank ≤ 1) (ha : addr ≤ 0x1FFF)
    (h : ¬(bank = 1 ∧ c.mode = .dmg)) : vramIndex c bank addr = .ok (.byteAt (bank * 0x2000 + addr)) := by
  rw [vramIndex_ok hb ha, if_neg (mt (bank1Absent_iff c bank).mp h)]

theorem eramIndex_bankOutOfRange {c : Config} {bank addr : Nat} (hb : c.nEramBanks ≤ bank) :
    eramIndex c bank addr = .error ⟨.bankOutOfRange, .num bank⟩ := if_pos hb

theorem eramIndex_addrOutOfRange {c : Config} {bank addr : Nat} (hb : bank < c.nEramBanks) (ha : 0x1FFF < addr) :
    eramIndex c bank addr = .error ⟨.addrOutOfRange, .num addr⟩ := by
  rw [eramIndex, if_neg (by omega), if_pos ha]

/-! ## The flat address -/

/-- The bank mask keeps every bit that the shift leaves in the bank number. -/
theorem flatBank_eq_div (faddr : BitVec 17) : flatBank faddr = faddr.toNat / 0x2000 := by
  have hlt := faddr.isLt
  calc flatBank faddr = (faddr.toNat &&& 0x1E000) >>> 13 := by simp [flatBank]
    _ = faddr.toNat >>> 13 &&& (2 ^ 4 - 1) := Nat.shiftRight_and_distrib
    _ = faddr.toNat / 0x2000 % 2 ^ 4 := by rw [Nat.and_two_pow_sub_one_eq_mod, Nat.shiftRight_eq_div_pow]
    _ = faddr.toNat / 0x2000 := Nat.mod_eq_of_lt (by omega)

theorem flatOffset_eq_mod (faddr : BitVec 17) : flatOffset faddr = faddr.toNat % 0x2000 :=
  Nat.and_two_pow_sub_one_eq_mod faddr.toNat 13

/-- Bank and offset of a flat address join to the address itself. -/
theorem flatBank_mul_add_flatOffset (faddr : BitVec 17) : flatBank faddr * 0x2000 + flatOffset faddr = faddr.toNat := by
  rw [flatBank_eq_div, flatOffset_eq_mod, Nat.div_add_mod']

theorem flatOffset_le (faddr : BitVec 17) : flatOffset faddr ≤ 0x1FFF := by
  rw [flatOffset_eq_mod]
  omega

/-- The address of a bank and an offset splits into them again. -/
theorem flatSplit_ofNat {bank offset : Nat} (hb : bank < 16) (ho : offset < 0x2000) :
    flatBank (BitVec.ofNat 17 (bank * 0x2000 + offset)) = bank ∧
      flatOffset (BitVec.ofNat 17 (bank * 0x2000 + offset)) = offset := by
  have hn : (BitVec.ofNat 17 (bank * 0x2000 + offset)).toNat = bank * 0x2000 + offset := by
    rw [BitVec.toNat_ofNat, Nat.mod_eq_of_lt (by omega)]
  rw [flatBank_eq_div, flatOffset_eq_mod, hn]
  omega

/-- The flat address of a present bank is its own index (40_vram_bank_mux.md R166). -/
theorem flatIndex_ok {c : Config} {faddr : BitVec 17} (h : faddr.toNat / 0x2000 < c.nEramBanks) :
    flatIndex c faddr = .ok faddr.toNat := by
  rw [← flatBank_eq_div] at h
  rw [flatIndex, eramIndex_ok h (flatOffset_le faddr), flatBank_mul_add_flatOffset]

theorem flatIndex_bankOutOfRange {c : Config} {faddr : BitVec 17} (h : c.nEramBanks ≤ faddr.toNat / 0x2000) :
    flatIndex c faddr = .error ⟨.bankOutOfRange, .num (faddr.toNat / 0x2000)⟩ := by
  rw [← flatBank_eq_div] at h ⊢
  exact eramIndex_bankOutOfRange h

/-! ## The P1 write -/

theorem exec_ioWr_owner {s : State} (ha : s.port.agent = .owner) (index data : Byte) :
    exec (.ioWr index data) s =
      .next ((s.ioWrite index data).1.respondWith .none (s.ioWrite index data).2) := asOwner_owner ha

theorem ioWrite_p1 (s : State) (data : Byte) : s.ioWrite 0 data = (s.memWrite .io 0 data).p1Write data := rfl

/-- Bits 5:4 of the byte as a number (10_state.md R39). -/
theorem lineValue_eq_ofNat (data : Byte) : lineValue data = BitVec.ofNat 2 (data.toNat / 16 % 4) := by
  apply BitVec.eq_of_toNat_eq
  simp [lineValue, Nat.shiftRight_eq_div_pow]

@[simp] theorem multiplayerStep_prevSel (sel : U2) (g : SgbState) : (multiplayerStep sel g).prevSel = g.prevSel := by
  unfold multiplayerStep
  split_ifs <;> rfl

@[simp] theorem lineStep_prevSel (c : Config) (sel : U2) (r : SgbRun) : (lineStep c sel r).sgb.prevSel = sel := rfl

/-- A P1 write leaves the line value it wrote in prev_sel (44_sgb_packet_engine.md R338). -/
theorem engineWrite_prevSel (c : Config) (sel : U2) (r : SgbRun) : (engineWrite c sel r).sgb.prevSel = sel :=
  (multiplayerStep_prevSel sel _).trans (lineStep_prevSel c sel r)

/-! ## The camera's addresses -/

theorem cameraAddr_lastCaptured (kind : CameraKind) : cameraAddr kind (-1) = 0x0100 := rfl

theorem cameraAddr_photo (k : Nat) : cameraAddr .photo k = 0x2000 + k * 0x1000 := if_neg (by omega)

theorem cameraAddr_thumb (k : Nat) : cameraAddr .thumb k = 0x2E00 + k * 0x1000 := if_neg (by omega)

/-! ## The obligations -/

/-- Settles O24: under the masks the split is quotient and remainder by the bank size, so the ERAM index of the two
parts is the flat address again. -/
theorem flatAddressesSplitBijectively : Obligations.FlatAddressesSplitBijectively := by
  unfold Obligations.FlatAddressesSplitBijectively
  refine ⟨fun a => ?_, fun b o hb ho => ⟨_, flatSplit_ofNat hb ho⟩, fun s a d => ?_⟩
  · have hlt := a.isLt
    rw [flatBank_eq_div, flatOffset_eq_mod]
    omega
  · have port := eramf_memoryPort a d
    exact ⟨fun h => port.run_ok (flatIndex_ok h), fun h => port.run_error (flatIndex_bankOutOfRange h)⟩

/-- Settles O21: the read and the write take the same branch of the mux. -/
theorem vramRequestsFollowTheBankMux : Obligations.VramRequestsFollowTheBankMux := by
  unfold Obligations.VramRequestsFollowTheBankMux
  intro s b a d
  have port := vram_memoryPort b a d
  refine ⟨fun hb => ?bank, fun hb ha => ?addr, fun hb ha h => ?absent, fun hb ha h => ?byte⟩
  case bank => exact port.run_error (vramIndex_bankOutOfRange hb)
  case addr => exact port.run_error (vramIndex_addrOutOfRange hb ha)
  case absent => exact port.run_ok (vramIndex_absent hb ha h)
  case byte => exact port.run_ok (vramIndex_byteAt hb ha h)

/-- Settles O23: the read and the write take the same branch of the bank check. -/
theorem eramRequestsFollowTheBankCheck : Obligations.EramRequestsFollowTheBankCheck := by
  unfold Obligations.EramRequestsFollowTheBankCheck
  intro s b a d
  have port := eram_memoryPort b a d
  refine ⟨fun hb => ?bank, fun hb ha => ?addr, fun hb ha => ?byte⟩
  case bank => exact port.run_error (eramIndex_bankOutOfRange hb)
  case addr => exact port.run_error (eramIndex_addrOutOfRange hb ha)
  case byte => exact port.run_ok (eramIndex_ok hb ha)

/-- Settles O45: the write stores its byte and performs P1Write on the state it left, and only the line step touches
prev_sel. -/
theorem p1WriteIsOneEngineStep : Obligations.P1WriteIsOneEngineStep := by
  unfold Obligations.P1WriteIsOneEngineStep
  refine ⟨fun s d ha hsgb => ?present, fun s d ha hsgb => ?absent, fun c sel r => ?engine⟩
  case present =>
    have hsgb' : (s.memWrite .io 0 d).sgbPresent = true := by simpa using hsgb
    rw [exec_ioWr_owner ha, ioWrite_p1, p1Write_present hsgb', lineValue_eq_ofNat]
    simp
  case absent =>
    have hsgb' : (s.memWrite .io 0 d).sgbPresent = false := by simpa using hsgb
    rw [exec_ioWr_owner ha, ioWrite_p1, p1Write_absent hsgb']
    rfl
  case engine => exact ⟨rfl, engineWrite_prevSel c sel r⟩

/-- Settles O60: the greatest address, of thumbnail slot 29, is below 2 ^ 17. -/
theorem cameraSlotsFitTheFlatAddress : Obligations.CameraSlotsFitTheFlatAddress := by
  unfold Obligations.CameraSlotsFitTheFlatAddress
  refine ⟨cameraAddr_lastCaptured, fun k hk => ?_⟩
  rw [cameraAddr_photo, cameraAddr_thumb]
  omega

end Sys2Proof.Machine
end

section
/-! PROOFS. Colours (41_palette_lut.md): the shade and the expansion of a colour word as numbers, the palette source of
each mode, and the colour a resolve request answers. -/

namespace Sys2Proof.Machine

/-! ## Shades and grays -/

/-- The two bits of a palette register as a number (41_palette_lut.md R201). -/
theorem shade_eq_ofNat (s : State) (reg : Nat) (ci : U2) : s.shade reg ci = BitVec.ofNat 2 (shadeNumber s reg ci) := by
  have hpow : 2 ^ (2 * ci.toNat) = 4 ^ ci.toNat := Nat.pow_mul 2 2 ci.toNat
  apply BitVec.eq_of_toNat_eq
  simp [State.shade, shadeOf, shadeNumber, Nat.shiftRight_eq_div_pow, hpow]

theorem shadeNumber_lt (s : State) (reg : Nat) (ci : U2) : shadeNumber s reg ci < 4 := Nat.mod_lt _ (by decide)

theorem gray_grayTriple (shade : U2) : grayTriple shade.toNat (gray shade) := by
  refine ⟨fun h => ?_, fun h => ?_, fun h => ?_, fun h => ?_⟩ <;> simp [gray, h]

theorem gray_shade_grayTriple (s : State) (reg : Nat) (ci : U2) :
    grayTriple (shadeNumber s reg ci) (gray (s.shade reg ci)) := by
  have hn : (s.shade reg ci).toNat = shadeNumber s reg ci := by
    rw [shade_eq_ofNat, BitVec.toNat_ofNat, Nat.mod_eq_of_lt (shadeNumber_lt s reg ci)]
  exact hn ▸ gray_grayTriple (s.shade reg ci)

/-- Every shade has a triple (10_state.md R59). -/
theorem gray_mem (shade : U2) :
    gray shade = ⟨255, 255, 255⟩ ∨ gray shade = ⟨168, 168, 168⟩ ∨ gray shade = ⟨80, 80, 80⟩ ∨ gray shade = ⟨0, 0, 0⟩ := by
  unfold gray
  split <;> simp

/-! ## Colour words -/

/-- A little-endian word as a number. -/
theorem toNat_append_byte (hi lo : Byte) : (hi ++ lo).toNat = lo.toNat + 256 * hi.toNat := by
  rw [BitVec.toNat_append, ← Nat.shiftLeft_add_eq_or_of_lt lo.isLt, Nat.shiftLeft_eq]
  omega

/-- The shift by 3 loses no bit of a 5-bit channel. -/
theorem toNat_channel8 (v : BitVec 5) : (channel8 v).toNat = 8 * v.toNat := by
  have hlt := v.isLt
  simp only [channel8, BitVec.toNat_shiftLeft, BitVec.toNat_setWidth, Nat.shiftLeft_eq]
  omega

theorem expand15_isExpansion (w : Half) : isExpansion w.toNat (expand15 w) := by
  refine ⟨?_, ?_, ?_⟩ <;> simp [expand15, toNat_channel8, Nat.shiftRight_eq_div_pow]

/-- The channels of an expanded word (41_palette_lut.md R208). -/
theorem isExpansion.channels_inRange {w : Nat} {c : Rgb8} (h : isExpansion w c) :
    ∀ v ∈ [c.r, c.g, c.b], v.toNat % 8 = 0 ∧ v.toNat ≤ 248 := by
  obtain ⟨hr, hg, hb⟩ := h
  simp only [List.forall_mem_cons, List.not_mem_nil, false_imp_iff, implies_true, and_true]
  omega

theorem cgbColor_isExpansion (s : State) (spr : Bool) (pal : Nat) (ci : U2) :
    isExpansion ((s.memRead (cgbTable spr) (pal * 8 + ci.toNat * 2)).toNat +
      256 * (s.memRead (cgbTable spr) (pal * 8 + ci.toNat * 2 + 1)).toNat) (s.cgbColor spr pal ci) := by
  rw [← toNat_append_byte]
  exact expand15_isExpansion _

/-! ## The palette source of each mode -/

section
variable {s : State} {spr : Bool} {pal : Nat} {ci : U2} {c : Rgb8}

theorem resolve_cgbEnabled (hm : s.cfg.mode = .cgbEnabled) : s.resolve spr pal ci = .ok (s.cgbColor spr pal ci) := by
  rw [State.resolve, hm]

theorem resolve_gbcCompat (hm : s.cfg.mode = .gbcCompat) : s.resolve spr pal ci = .ok (s.compatColor spr pal ci) := by
  rw [State.resolve, hm]

theorem resolve_dmg (hm : s.cfg.mode = .dmg) : s.resolve spr pal ci = s.dmgColor spr pal ci := by
  rw [State.resolve, hm]

theorem compatColor_sprite (hp : pal ≤ 1) :
    s.compatColor true pal ci = compatSprColor s.cfg pal (s.shade (objReg pal) ci) := if_neg (Nat.not_lt.mpr hp)

theorem compatColor_sprite_black (hp : 1 < pal) : s.compatColor true pal ci = black := if_pos hp

theorem compatColor_background : s.compatColor false 0 ci = compatBgColor s.cfg (s.shade ioBgp ci) := rfl

theorem compatColor_background_black (hp : 0 < pal) : s.compatColor false pal ci = black := if_pos hp

theorem dmgColor_sprite (hp : pal ≤ 1) : s.dmgColor true pal ci = .ok (gray (s.shade (objReg pal) ci)) :=
  if_neg (Nat.not_lt.mpr hp)

theorem dmgColor_sprite_outOfRange (hp : 1 < pal) :
    s.dmgColor true pal ci = .error ⟨.paletteOutOfRange, .num pal⟩ := if_pos hp

theorem dmgColor_background : s.dmgColor false pal ci = .ok (gray (s.shade ioBgp ci)) := rfl

/-- Every colour of DMG mode is a gray. -/
theorem dmgColor_ok (h : s.dmgColor spr pal ci = .ok c) : ∃ shade, c = gray shade := by
  cases spr with
  | false => exact ⟨_, (Except.ok.inj h).symm⟩
  | true =>
    rcases Nat.lt_or_ge 1 pal with hp | hp
    · rw [dmgColor_sprite_outOfRange hp] at h
      cases h
    · rw [dmgColor_sprite hp] at h
      exact ⟨_, (Except.ok.inj h).symm⟩

end

/-! ## The resolve requests -/

section
variable {s t : State} {spr : Bool} {pal : BitVec 3} {ci : U2} {c : Rgb8}

theorem exec_resolveColor (s : State) (spr : Bool) (pal : BitVec 3) (ci : U2) :
    exec (.resolveColor spr pal ci) s = answer s ((s.resolve spr pal.toNat ci).map .rgb) := rfl

theorem exec_resolveColor_ok (h : s.resolve spr pal.toNat ci = .ok c) :
    exec (.resolveColor spr pal ci) s = .next (s.respond (.rgb c)) := by
  rw [exec_resolveColor, h]
  rfl

theorem exec_resolveColor_error {f : SpecFault} (h : s.resolve spr pal.toNat ci = .error f) :
    exec (.resolveColor spr pal ci) s = .next (s.raise f) := by
  rw [exec_resolveColor, h]
  rfl

/-- A request that answers a computed colour answers no colour but that one. -/
theorem answer_map_rgb_reply {r : Except SpecFault Rgb8} (h : answer s (r.map .rgb) = .next t)
    (hc : t.reply.resp = .rgb c) : r = .ok c := by
  cases r with
  | ok d =>
    cases h
    cases hc
    rfl
  | error f =>
    cases h
    cases hc

/-- A colour either resolve request answers is one of the palette source. -/
theorem resolve_of_reply {i : Instr}
    (hi : (∃ spr pal ci, i = .resolveColor spr pal ci) ∨ ∃ attr ci, i = .resolveBgColor attr ci)
    (h : exec i s = .next t) (hc : t.reply.resp = .rgb c) : ∃ spr pal ci, s.resolve spr pal ci = .ok c := by
  obtain ⟨spr, pal, ci, rfl⟩ | ⟨attr, ci, rfl⟩ := hi
  · exact ⟨spr, pal.toNat, ci, answer_map_rgb_reply h hc⟩
  · exact ⟨false, attrPal attr, ci, answer_map_rgb_reply h hc⟩

end

/-! ## The obligations -/

/-- Settles O30: both requests answer a colour of the palette source, which is a gray in DMG mode and an expanded word
in CGBEnabled mode. -/
theorem resolvedColorsStayInRange : Obligations.ResolvedColorsStayInRange := by
  unfold Obligations.ResolvedColorsStayInRange
  intro i s t c hi h hc
  obtain ⟨spr, pal, ci, hr⟩ := resolve_of_reply hi h hc
  refine ⟨fun hm => ?dmg, fun hm => ?cgb⟩
  case dmg =>
    rw [resolve_dmg hm] at hr
    obtain ⟨shade, rfl⟩ := dmgColor_ok hr
    exact gray_mem shade
  case cgb =>
    rw [resolve_cgbEnabled hm] at hr
    obtain rfl := Except.ok.inj hr
    exact (cgbColor_isExpansion s spr pal ci).channels_inRange

/-- Settles O26: the two bytes join to the word, and each channel is its field shifted within eight bits. -/
theorem cgbColorsExpandTheStoredWord : Obligations.CgbColorsExpandTheStoredWord := by
  unfold Obligations.CgbColorsExpandTheStoredWord
  intro s spr pal ci hm
  exact ⟨_, exec_resolveColor_ok (resolve_cgbEnabled hm), cgbColor_isExpansion s spr pal.toNat ci⟩

/-- Settles O27: the mode chooses the compatibility tables, the palette number the register or black. -/
theorem compatColorsLayerOnTheShade : Obligations.CompatColorsLayerOnTheShade := by
  unfold Obligations.CompatColorsLayerOnTheShade
  intro s pal ci hm
  have hexec (spr : Bool) : exec (.resolveColor spr pal ci) s =
      .next (s.respond (.rgb (s.compatColor spr pal.toNat ci))) := exec_resolveColor_ok (resolve_gbcCompat hm)
  simp only [hexec, ← shade_eq_ofNat]
  refine ⟨fun hp => ?obj0, fun hp => ?obj1, fun hp => ?objBlack, fun hp => ?bg, fun hp => ?bgBlack⟩
  case obj0 =>
    rw [hp, compatColor_sprite (by decide)]
    rfl
  case obj1 =>
    rw [hp, compatColor_sprite (by decide)]
    rfl
  case objBlack =>
    rw [compatColor_sprite_black hp]
    rfl
  case bg =>
    rw [hp, compatColor_background]
    rfl
  case bgBlack =>
    rw [compatColor_background_black hp]
    rfl

/-- Settles O28: the sprite palette chooses the register or the fault, the background always reads BGP, and the gray of
a shade is its triple. -/
theorem dmgColorsAreTheGrayOfTheShade : Obligations.DmgColorsAreTheGrayOfTheShade := by
  unfold Obligations.DmgColorsAreTheGrayOfTheShade
  intro s pal ci hm
  refine ⟨fun hp => ?obj, fun hp => ?objFault, ?bg⟩
  case obj =>
    exact ⟨_, exec_resolveColor_ok ((resolve_dmg hm).trans (dmgColor_sprite hp)),
      gray_shade_grayTriple s (objReg pal.toNat) ci⟩
  case objFault => exact exec_resolveColor_error ((resolve_dmg hm).trans (dmgColor_sprite_outOfRange hp))
  case bg =>
    exact ⟨_, exec_resolveColor_ok ((resolve_dmg hm).trans dmgColor_background), gray_shade_grayTriple s ioBgp ci⟩

end Sys2Proof.Machine
end

section
/-! PROOFS. Tile rows (42_tile_decoder.md): a pixel of a row as a number, and what the flips of a row and of a sprite's
grid do to it. -/

namespace Sys2Proof.Machine

/-! ## A row and its pixels -/

theorem vramFetch_eq_fetchedByte (s : State) (bank off : Nat) : s.vramFetch bank off = fetchedByte s bank off := by
  simp only [State.vramFetch, fetchedByte, bank1Absent_iff, bankSize]

theorem toNat_ofBool_getLsbD (v : Byte) (k : Nat) : (BitVec.ofBool (v.getLsbD k)).toNat = bitOf v k := by
  rw [BitVec.toNat_ofBool, BitVec.getLsbD, Nat.toNat_testBit, bitOf]

/-- The two planes of a pixel as a number (42_tile_decoder.md R241). -/
theorem toNat_pixelAt (b0 b1 : Byte) (k : Nat) : (pixelAt b0 b1 k).toNat = 2 * bitOf b1 k + bitOf b0 k := by
  rw [pixelAt, BitVec.toNat_append, ← Nat.shiftLeft_add_eq_or_of_lt (BitVec.isLt _), Nat.shiftLeft_eq,
    toNat_ofBool_getLsbD, toNat_ofBool_getLsbD]
  omega

theorem pixels_getElem (b0 b1 : Byte) (hflip : Bool) {x : Nat} (hx : x < 8) :
    (pixels b0 b1 hflip)[x] = pixelAt b0 b1 (pixelBit hflip x) := Vector.getElem_ofFn hx

theorem tileRow_getElem_toNat (s : State) (bank t r : Nat) (hflip : Bool) {x : Nat} (hx : x < 8) :
    (s.tileRow bank t r hflip)[x].toNat =
      2 * bitOf (fetchedByte s bank (t * 16 + 2 * r + 1)) (if hflip then x else 7 - x) +
        bitOf (fetchedByte s bank (t * 16 + 2 * r)) (if hflip then x else 7 - x) := by
  rw [State.tileRow, pixels_getElem _ _ _ hx, toNat_pixelAt, vramFetch_eq_fetchedByte, vramFetch_eq_fetchedByte]
  rfl

/-- H-flip reads at column `x` the bit the plain row reads at column `7 - x` (42_tile_decoder.md R244). -/
theorem tileRow_hflip_getElem (s : State) (bank t r : Nat) {x : Nat} (hx : x < 8) :
    (s.tileRow bank t r true)[x] = (s.tileRow bank t r false)[7 - x] := by
  have hbit : pixelBit true x = pixelBit false (7 - x) := (Nat.sub_sub_self (Nat.le_of_lt_succ hx)).symm
  rw [State.tileRow, State.tileRow, pixels_getElem _ _ _ hx, pixels_getElem, hbit]

/-- V-flip reads the mirrored row (42_tile_decoder.md R242). -/
theorem flippedRow_true (row : BitVec 3) :
    flippedRow true row = flippedRow false (BitVec.ofNat 3 (7 - row.toNat)) := by
  have hlt : 7 - row.toNat < 2 ^ 3 := by omega
  exact (Nat.mod_eq_of_lt hlt).symm

/-! ## DECODE_TILE_ROW -/

section
variable {tile : BitVec 9} (s : State) (bank : BitVec 1) (row : BitVec 3) (hflip vflip : Bool)

theorem exec_decodeTileRow : exec (.decodeTileRow bank tile row hflip vflip) s =
    answer s ((tileIndex tile).map fun t => .row (s.tileRow bank.toNat t (flippedRow vflip row) hflip)) := rfl

theorem exec_decodeTileRow_ok (ht : tile.toNat < 384) : exec (.decodeTileRow bank tile row hflip vflip) s =
    .next (s.respond (.row (s.tileRow bank.toNat tile.toNat (flippedRow vflip row) hflip))) := by
  rw [exec_decodeTileRow, tileIndex_ok ht]
  rfl

theorem exec_decodeTileRow_tileOutOfRange (ht : 384 ≤ tile.toNat) :
    exec (.decodeTileRow bank tile row hflip vflip) s = .next (s.raise ⟨.tileOutOfRange, .num tile.toNat⟩) := by
  rw [exec_decodeTileRow, tileIndex, if_pos ht]
  rfl

end

/-! ## DECODE_SPRITE after a write to OAM -/

theorem exec_decodeSprite_ok {obj : BitVec 6} (ho : obj.toNat < 40) (s : State) : exec (.decodeSprite obj) s =
    .next (s.respond (.grid s.spriteHeight (s.spriteGrid (s.oamEntry obj.toNat)))) := by
  have hexec : exec (.decodeSprite obj) s =
      answer s ((objIndex obj).map fun i => .grid s.spriteHeight (s.spriteGrid (s.oamEntry i))) := rfl
  rw [hexec, objIndex_ok ho]
  rfl

section
variable (s : State) (i : Nat) (v : Byte) (e : OamEntryView)

theorem memWrite_oam_spriteHeight : (s.memWrite .oam i v).spriteHeight = s.spriteHeight := by
  simp [State.spriteHeight, State.objSize, memRead_memWrite]

theorem memWrite_oam_vramFetch (bank off : Nat) : (s.memWrite .oam i v).vramFetch bank off = s.vramFetch bank off := by
  simp [State.vramFetch, memRead_memWrite]

/-- A sprite's grid is decoded from VRAM, LCDC and the entry it is given, and sees OAM through that entry only. -/
theorem memWrite_oam_spriteGrid : (s.memWrite .oam i v).spriteGrid e = s.spriteGrid e := by
  have hrow : (s.memWrite .oam i v).spriteRow e = s.spriteRow e := by
    funext r
    simp only [State.spriteRow, State.tileRow, memWrite_oam_spriteHeight, memWrite_oam_vramFetch, memWrite_cfg]
  rw [State.spriteGrid, State.spriteGrid, memWrite_oam_spriteHeight, hrow]

theorem memWrite_info_oamEntry :
    (s.memWrite .oam (4 * i + 3) v).oamEntry i = { s.oamEntry i with info := v } := by
  simp [State.oamEntry, memRead_memWrite]

end

/-! ## The Y-flip bit of an entry -/

/-- The entry with its Y-flip bit toggled (10_state.md R36). -/
def OamEntryView.toggleYflip (e : OamEntryView) : OamEntryView := { e with info := e.info ^^^ 0x40 }

theorem memWrite_info_xor_oamEntry (s : State) (i : Nat) :
    (s.memWrite .oam (4 * i + 3) (s.memRead .oam (4 * i + 3) ^^^ 0x40)).oamEntry i = (s.oamEntry i).toggleYflip :=
  memWrite_info_oamEntry s i _

section
variable (e : OamEntryView)

@[simp] theorem toggleYflip_tile : e.toggleYflip.tile = e.tile := rfl

@[simp] theorem toggleYflip_yflip : infoYflip e.toggleYflip.info = !infoYflip e.info := by
  simp [infoYflip, OamEntryView.toggleYflip]

@[simp] theorem toggleYflip_xflip : infoXflip e.toggleYflip.info = infoXflip e.info := by
  simp [infoXflip, OamEntryView.toggleYflip]

@[simp] theorem toggleYflip_bank : infoBank e.toggleYflip.info = infoBank e.info := by
  simp [infoBank, OamEntryView.toggleYflip, BitVec.extractLsb'_xor]

@[simp] theorem toggleYflip_spriteBank (m : Mode) : spriteBank m e.toggleYflip.info = spriteBank m e.info := by
  cases m <;> simp [spriteBank]

end

/-- Across the full height, flipping is mirroring the row number (43_sprite_rasterizer.md R273). -/
theorem physicalRow_not (yflip : Bool) {height r : Nat} (hr : r < height) :
    physicalRow (!yflip) height r = physicalRow yflip height (height - 1 - r) := by
  cases yflip with
  | false => exact Nat.sub_right_comm height r 1
  | true =>
    show r = height - (height - 1 - r) - 1
    omega

theorem spriteRow_toggleYflip (s : State) (e : OamEntryView) {r : Nat} (hr : r < s.spriteHeight) :
    s.spriteRow e.toggleYflip r = s.spriteRow e (s.spriteHeight - 1 - r) := by
  simp [State.spriteRow, physicalRow_not _ hr]

/-- Toggling the Y-flip bit reverses the grid (42_tile_decoder.md R244). -/
theorem spriteGrid_toggleYflip (s : State) (e : OamEntryView) :
    s.spriteGrid e.toggleYflip = (s.spriteGrid e).reverse := by
  refine List.ext_getElem (by simp [State.spriteGrid]) fun r hr _ => ?_
  have hr : r < s.spriteHeight := by simpa [State.spriteGrid] using hr
  simp [State.spriteGrid, spriteRow_toggleYflip s e hr]

/-! ## The obligations -/

/-- Settles O34: H-flip and V-flip choose the bit and the row that the plain request reads at the mirrored place, and
the toggled bit of the Info byte changes only which row of the sprite is read. -/
theorem flipsMirrorRowsAndGrids : Obligations.FlipsMirrorRowsAndGrids := by
  unfold Obligations.FlipsMirrorRowsAndGrids
  refine ⟨fun s b tile row v h => ⟨fun ht => ?hflip, ?vflip⟩, fun s obj ho => ?yflip⟩
  case hflip =>
    exact ⟨_, _, exec_decodeTileRow_ok s b row false v ht, exec_decodeTileRow_ok s b row true v ht,
      fun x hx => tileRow_hflip_getElem s _ _ _ hx⟩
  case vflip => rw [exec_decodeTileRow, exec_decodeTileRow, flippedRow_true]
  case yflip =>
    refine ⟨_, _, exec_decodeSprite_ok ho s, ?_⟩
    rw [exec_decodeSprite_ok ho, memWrite_oam_spriteHeight, memWrite_oam_spriteGrid, memWrite_info_xor_oamEntry,
      spriteGrid_toggleYflip]

/-- Settles O33: a pixel joins the bits of the two planes that its row and its flip choose. -/
theorem tileRowsDecodeTwoPlanes : Obligations.TileRowsDecodeTwoPlanes := by
  unfold Obligations.TileRowsDecodeTwoPlanes
  intro s b tile row h v
  refine ⟨fun ht => ?pixels, fun ht => exec_decodeTileRow_tileOutOfRange s b row h v ht⟩
  case pixels =>
    exact ⟨_, exec_decodeTileRow_ok s b row h v ht, fun x hx => tileRow_getElem_toNat s _ _ _ h hx⟩

end Sys2Proof.Machine
end

section
/-! PROOFS. The sprite rasterizer (43_sprite_rasterizer.md): height, tile, bank and flips of an entry as numbers, and
the grid DECODE_SPRITE answers. -/

namespace Sys2Proof.Machine

/-! ## The bits of a byte and the fields of an entry -/

theorem getLsbD_iff_bitOf (v : Byte) (k : Nat) : v.getLsbD k = true ↔ bitOf v k = 1 := by
  rw [← toNat_ofBool_getLsbD]
  cases v.getLsbD k <;> decide

theorem infoYflip_iff (info : Byte) : infoYflip info = true ↔ bitOf info 6 = 1 := getLsbD_iff_bitOf info 6

theorem infoXflip_iff (info : Byte) : infoXflip info = true ↔ bitOf info 5 = 1 := getLsbD_iff_bitOf info 5

theorem infoBank_eq_bitOf (info : Byte) : infoBank info = bitOf info 3 := by
  rw [infoBank, BitVec.extractLsb'_toNat, Nat.shiftRight_eq_div_pow, bitOf]

theorem objSize_iff (s : State) : s.objSize = true ↔ bitOf (s.memRead .io 0x40) 2 = 1 := getLsbD_iff_bitOf _ 2

theorem spriteHeight_eq (s : State) :
    s.spriteHeight = if bitOf (s.memRead .io 0x40) 2 = 1 then 16 else 8 := by
  simp only [State.spriteHeight, objSize_iff]

/-- Forcing bit 0 to 0 rounds down to an even number (43_sprite_rasterizer.md R271). -/
theorem toNat_and_0xFE (v : Byte) : (v &&& 0xFE).toNat = v.toNat - v.toNat % 2 := by
  have hand : (v &&& 0xFE).toNat = v.toNat &&& 254 := BitVec.toNat_and v 0xFE
  have hhigh : (v.toNat &&& 254) / 2 = v.toNat / 2 := by
    rw [Nat.and_div_two]
    exact (Nat.and_two_pow_sub_one_eq_mod _ 7).trans (Nat.mod_eq_of_lt (by omega))
  have hlow : (v.toNat &&& 254) % 2 = 0 := (Nat.and_mod_two_pow (n := 1)).trans (Nat.and_zero _)
  omega

theorem spriteTile_eq (height : Nat) (tile : Byte) :
    spriteTile height tile = if height = 16 then tile.toNat - tile.toNat % 2 else tile.toNat := by
  rw [spriteTile, toNat_and_0xFE]

/-- Only CGBEnabled mode takes the bank from the entry (43_sprite_rasterizer.md R272). -/
theorem spriteBank_eq (m : Mode) (info : Byte) :
    spriteBank m info = if m = .cgbEnabled then bitOf info 3 else 0 := by
  cases m with
  | cgbEnabled => exact infoBank_eq_bitOf info
  | gbcCompat => rfl
  | dmg => rfl

theorem physicalRow_eq (info : Byte) (height r : Nat) :
    physicalRow (infoYflip info) height r = if bitOf info 6 = 1 then height - r - 1 else r := by
  simp only [physicalRow, infoYflip_iff]

/-! ## The grid of an entry -/

section
variable (s : State) (e : OamEntryView)

@[simp] theorem spriteGrid_length : (s.spriteGrid e).length = s.spriteHeight := by
  rw [State.spriteGrid, List.length_map, List.length_range]

theorem spriteGrid_getElem? {r : Nat} (hr : r < s.spriteHeight) : (s.spriteGrid e)[r]? = some (s.spriteRow e r) := by
  rw [State.spriteGrid, List.getElem?_map, List.getElem?_range hr]
  rfl

/-- A sprite pixel is the tile pixel at the row and the column its flips choose (43_sprite_rasterizer.md R274). -/
theorem spriteRow_getElem_toNat (r : Nat) {x : Nat} (hx : x < 8) :
    let bank := if s.cfg.mode = .cgbEnabled then bitOf e.info 3 else 0
    let off := (if s.spriteHeight = 16 then e.tile.toNat - e.tile.toNat % 2 else e.tile.toNat) * 16 +
      2 * (if bitOf e.info 6 = 1 then s.spriteHeight - r - 1 else r)
    let k := if bitOf e.info 5 = 1 then x else 7 - x
    (s.spriteRow e r)[x].toNat = 2 * bitOf (fetchedByte s bank (off + 1)) k + bitOf (fetchedByte s bank off) k := by
  simp only [State.spriteRow, tileRow_getElem_toNat, spriteBank_eq, spriteTile_eq, physicalRow_eq, infoXflip_iff]

end

/-! ## DECODE_SPRITE -/

theorem objIndex_outOfRange {obj : BitVec 6} (ho : 40 ≤ obj.toNat) :
    objIndex obj = .error ⟨.oamIndexOutOfRange, .num obj.toNat⟩ := if_pos ho

theorem exec_decodeSprite_outOfRange {obj : BitVec 6} (ho : 40 ≤ obj.toNat) (s : State) :
    exec (.decodeSprite obj) s = .next (s.raise ⟨.oamIndexOutOfRange, .num obj.toNat⟩) := by
  have hexec : exec (.decodeSprite obj) s =
      answer s ((objIndex obj).map fun i => .grid s.spriteHeight (s.spriteGrid (s.oamEntry i))) := rfl
  rw [hexec, objIndex_outOfRange ho]
  rfl

/-- Settles O35: the grid has a row for each row of the sprite's height, and each of its pixels is the tile pixel that
the entry's tile, bank and flips choose. -/
theorem spriteGridsDecodeTheEntry : Obligations.SpriteGridsDecodeTheEntry := by
  unfold Obligations.SpriteGridsDecodeTheEntry
  intro s obj
  refine ⟨fun ho => ⟨s.spriteGrid (s.oamEntry obj.toNat), ?grid⟩, fun ho => exec_decodeSprite_outOfRange ho s⟩
  case grid =>
    simp only [← spriteHeight_eq]
    exact ⟨exec_decodeSprite_ok ho s, spriteGrid_length s _, fun r hr =>
      ⟨_, spriteGrid_getElem? s _ hr, fun x hx => spriteRow_getElem_toNat s (s.oamEntry obj.toNat) r hx⟩⟩

end Sys2Proof.Machine
end

section
/-! PROOFS. The P1 line step (44_sgb_packet_engine.md R320 to R338): what each line value does to the engine, and what
eight bits in a row leave in the byte at the cursors. -/

namespace Sys2Proof.Machine

/-! ## The line step by what the line value does -/

theorem bitTaken_iff (sel : U2) (g : SgbState) : bitTaken sel g = true ↔
    (sel = 0b01 ∨ sel = 0b10) ∧ g.prevSel = 0b11 ∧ g.sending = true ∧ g.waitReset = false := by
  simp [bitTaken, and_assoc]

section
variable {c : Config} {sel : U2} {r : SgbRun}

theorem lineStep_resetPulse : lineStep c 0b00 r = { r with sgb := { resetPulse r.sgb with prevSel := 0b00 } } := by
  rw [lineStep, lineEvent, if_pos rfl]

theorem lineStep_notTaken (h0 : sel ≠ 0b00) (hb : bitTaken sel r.sgb = false) :
    lineStep c sel r = { r with sgb := { r.sgb with prevSel := sel } } := by
  simp only [lineStep, lineEvent, if_neg h0, hb, Bool.false_eq_true, if_false]

theorem lineStep_bit (hb : bitTaken sel r.sgb = true) :
    lineStep c sel r =
      { finishPacket c { r with sgb := finishByte (shiftBit (sel == 0b01) r.sgb) } with
        sgb := { (finishPacket c { r with sgb := finishByte (shiftBit (sel == 0b01) r.sgb) }).sgb with
          prevSel := sel } } := by
  have h0 : sel ≠ 0b00 := by
    rintro rfl
    simp [bitTaken] at hb
  simp only [lineStep, lineEvent, if_neg h0, hb, if_true]

end

/-! ## The reset pulse by the engine's situation (R330) -/

section
variable {g : SgbState}

theorem resetPulse_idle (hs : g.sending = false) : resetPulse g =
    { g with sending := true, waitReset := false, currbit := 0, currbyte := 0, currpacket := 0 } := by
  simp only [resetPulse, hs, Bool.not_false, if_true]

theorem resetPulse_betweenPackets (hs : g.sending = true) (hw : g.waitReset = true) :
    resetPulse g = { g with waitReset := false } := by
  simp only [resetPulse, hs, hw, Bool.not_true, Bool.false_eq_true, if_false, if_true]

theorem resetPulse_packetStart (hs : g.sending = true) (hw : g.waitReset = false)
    (hc : g.currbit = 0 ∧ g.currbyte = 0) : resetPulse g = g := by
  simp only [resetPulse, hs, hw, Bool.not_true, Bool.false_eq_true, if_false, if_pos hc]

theorem resetPulse_midPacket (hs : g.sending = true) (hw : g.waitReset = false)
    (hc : ¬(g.currbit = 0 ∧ g.currbyte = 0)) : resetPulse g =
    { g with sending := false, currbit := 0, currbyte := 0, currpacket := 0 } := by
  simp only [resetPulse, hs, hw, Bool.not_true, Bool.false_eq_true, if_false, if_neg hc]

end

/-! ## A bit taken -/

/-- A byte after a bit is shifted into it from the top (44_sgb_packet_engine.md R332). -/
def shiftedByte (bit : Bool) (v : Byte) : Byte := v >>> 1 ||| (BitVec.ofBool bit).setWidth 8 <<< 7

theorem getLsbD_shiftedByte (bit : Bool) (v : Byte) {i : Nat} (hi : i < 8) :
    (shiftedByte bit v).getLsbD i = if i = 7 then bit else v.getLsbD (i + 1) := by
  by_cases h7 : i = 7
  · subst h7
    simp [shiftedByte]
  · have hlt : i < 7 := by omega
    simp [shiftedByte, hi, h7, hlt, Nat.add_comm 1 i]

/-- The shifted byte as a number. -/
theorem toNat_shiftedByte (bit : Bool) (v : Byte) :
    (shiftedByte bit v).toNat = v.toNat / 2 + if bit = true then 128 else 0 := by
  have hhalf : (v >>> 1).toNat = v.toNat / 2 := by simp [Nat.shiftRight_eq_div_pow]
  cases bit with
  | false => simp [shiftedByte, Nat.shiftRight_eq_div_pow]
  | true =>
    have hlt : v.toNat / 2 < 2 ^ 7 := by omega
    have htop : ((BitVec.ofBool true).setWidth 8 <<< 7 : Byte).toNat = 1 <<< 7 := rfl
    rw [shiftedByte, BitVec.toNat_or, hhalf, htop, Nat.or_comm, ← Nat.shiftLeft_add_eq_or_of_lt hlt]
    simp [Nat.add_comm]

theorem shiftedByte_eq_ofNat (sel : U2) (v : Byte) :
    shiftedByte (sel == 0b01) v = BitVec.ofNat 8 (v.toNat / 2 + if sel = 0b01 then 128 else 0) := by
  apply BitVec.eq_of_toNat_eq
  rw [toNat_shiftedByte, BitVec.toNat_ofNat]
  by_cases h : sel = 0b01 <;> simp only [h, beq_iff_eq, if_true, if_false] <;> omega

theorem shiftBit_data (sel : U2) (g : SgbState) : (shiftBit (sel == 0b01) g).data = shiftedBuffer g sel := by
  rw [shiftedBuffer, ← shiftedByte_eq_ofNat]
  rfl

/-- The byte at the cursors after a bit is taken; they stand inside the buffer while a packet is received. -/
theorem tabGet_shiftedBuffer {g : SgbState} (sel : U2) (hp : g.currpacket < 7) (hb : g.currbyte < 16) (p b : Nat) :
    tabGet (shiftedBuffer g sel) p b = if p = g.currpacket ∧ b = g.currbyte then
      shiftedByte (sel == 0b01) (tabGet g.data g.currpacket g.currbyte) else tabGet g.data p b := by
  rw [shiftedBuffer, tabGet_tabSet _ _ _ _ _ _ hp hb, shiftedByte_eq_ofNat]

/-- While a packet is received its number is one of the buffer's (10_state.md R55). -/
theorem SgbState.Inv.currpacket_lt {g : SgbState} (h : g.Inv) (hs : g.sending = true) : g.currpacket < 7 := by
  by_contra hge
  have hlt := h.receiving hs (by omega)
  have hle := h.count
  omega

/-- Bit and byte cursor count the bits of a packet together (44_sgb_packet_engine.md R332, R333). -/
theorem finishByte_shiftBit {g : SgbState} (sel : U2) (hbit : g.currbit < 8) :
    finishByte (shiftBit (sel == 0b01) g) =
      { g with
        data := shiftedBuffer g sel
        currbit := (g.currbit + 1) % 8
        currbyte := g.currbyte + (g.currbit + 1) / 8 } := by
  rw [← shiftBit_data]
  by_cases h7 : g.currbit = 7
  · simp [finishByte, shiftBit, h7]
  · have hmod : (g.currbit + 1) % 8 = g.currbit + 1 := by omega
    have hdiv : (g.currbit + 1) / 8 = 0 := by omega
    have hne : (shiftBit (sel == 0b01) g).currbit ≠ 8 := by
      simp only [shiftBit]
      omega
    rw [finishByte, if_neg hne, hmod, hdiv]
    rfl

/-- A bit that is not the last of its packet (44_sgb_packet_engine.md R331 to R333). -/
theorem lineStep_bit_midPacket {c : Config} {sel : U2} {r : SgbRun} (hb : bitTaken sel r.sgb = true)
    (hbit : r.sgb.currbit < 8) (hbyte : r.sgb.currbyte < 16) (hlast : ¬(r.sgb.currbit = 7 ∧ r.sgb.currbyte = 15)) :
    lineStep c sel r = { r with sgb := { r.sgb with
      data := shiftedBuffer r.sgb sel
      currbit := (r.sgb.currbit + 1) % 8
      currbyte := r.sgb.currbyte + (r.sgb.currbit + 1) / 8
      prevSel := sel } } := by
  have h16 : r.sgb.currbyte + (r.sgb.currbit + 1) / 8 ≠ 16 := by omega
  rw [lineStep_bit hb, finishByte_shiftBit sel hbit, finishPacket, if_neg h16]

/-! ## The bits of one byte -/

theorem engineWrites_append (c : Config) (xs ys : List Byte) (r : SgbRun) :
    engineWrites c (xs ++ ys) r = engineWrites c ys (engineWrites c xs r) := by
  induction xs generalizing r with
  | nil => rfl
  | cons x xs ih => exact ih _

/-- The line value that carries a bit (44_sgb_packet_engine.md R331). -/
def bitLine (bit : Bool) : U2 := if bit then 0b01 else 0b10

@[simp] theorem bitLine_beq (bit : Bool) : (bitLine bit == 0b01) = bit := by cases bit <;> rfl

theorem bitLine_mem (bit : Bool) : bitLine bit = 0b01 ∨ bitLine bit = 0b10 := by cases bit <;> decide

/-- A bit is a select write and an idle write. -/
theorem engineWrites_bitWrites (c : Config) (bit : Bool) (r : SgbRun) :
    engineWrites c (bitWrites bit) r = engineWrite c 0b11 (engineWrite c (bitLine bit) r) := by
  cases bit <;> rfl

/-- The engine receives bit `k` of byte `b` of packet `p`, the line value before was `sel`, and the byte holds `v`. -/
structure SgbState.Receiving (g : SgbState) (sel : U2) (p b k : Nat) (v : Byte) : Prop where
  prevSel : g.prevSel = sel
  sending : g.sending = true
  waitReset : g.waitReset = false
  packet : g.currpacket = p
  byte : g.currbyte = b
  bit : g.currbit = k
  value : tabGet g.data p b = v

section
variable {c : Config} {r : SgbRun} {g : SgbState} {sel : U2} {p b k : Nat} {v : Byte}

@[simp] theorem multiplayerStep_data : (multiplayerStep sel g).data = g.data := by
  unfold multiplayerStep
  split_ifs <;> rfl

theorem multiplayerStep_receiving {sel' : U2} (h : g.Receiving sel p b k v) :
    (multiplayerStep sel' g).Receiving sel p b k v := by
  obtain ⟨hsel, hs, hw, hp, hb, hk, hv⟩ := h
  unfold multiplayerStep
  split_ifs <;> exact ⟨hsel, hs, hw, hp, hb, hk, hv⟩

theorem SgbState.Receiving.bitTaken (h : g.Receiving 0b11 p b k v) (bit : Bool) :
    bitTaken (bitLine bit) g = true :=
  (bitTaken_iff _ g).mpr ⟨bitLine_mem bit, h.prevSel, h.sending, h.waitReset⟩

theorem bitTaken_idle (g : SgbState) : bitTaken 0b11 g = false := rfl

@[simp] theorem engineWrite_idle_data : (engineWrite c 0b11 r).sgb.data = r.sgb.data := by
  rw [engineWrite, multiplayerStep_data, lineStep_notTaken (by decide) (bitTaken_idle _)]

theorem engineWrite_idle_receiving (h : r.sgb.Receiving sel p b k v) :
    (engineWrite c 0b11 r).sgb.Receiving 0b11 p b k v := by
  obtain ⟨-, hs, hw, hp, hb, hk, hv⟩ := h
  refine multiplayerStep_receiving ?_
  rw [lineStep_notTaken (by decide) (bitTaken_idle _)]
  exact ⟨rfl, hs, hw, hp, hb, hk, hv⟩

/-- Completing a packet writes no byte of the buffer. -/
@[simp] theorem finishPacket_data : (finishPacket c r).sgb.data = r.sgb.data := by
  rcases finishPacket_cases c r with ⟨-, e⟩ | ⟨-, -, e⟩ | ⟨-, -, e⟩ <;> rw [e]
  · simp only [completeCommand, applyCommand_data, completedPacket]
  · simp only [completedPacket]

@[simp] theorem finishByte_data : (finishByte g).data = g.data := by
  unfold finishByte
  split_ifs <;> rfl

theorem engineWrite_bit_data (hb : bitTaken sel r.sgb = true) :
    (engineWrite c sel r).sgb.data = shiftedBuffer r.sgb sel := by
  simp only [engineWrite, multiplayerStep_data, lineStep_bit hb, finishPacket_data, finishByte_data, shiftBit_data]

/-- A bit lands in the byte at the cursors, be it the last of its packet or not. -/
theorem engineWrites_bitWrites_value (bit : Bool) (h : r.sgb.Receiving 0b11 p b k v) (hp : p < 7) (hb : b < 16) :
    tabGet (engineWrites c (bitWrites bit) r).sgb.data p b = shiftedByte bit v := by
  rw [engineWrites_bitWrites, engineWrite_idle_data, engineWrite_bit_data (h.bitTaken bit)]
  obtain ⟨-, -, -, rfl, rfl, -, rfl⟩ := h
  rw [tabGet_shiftedBuffer _ hp hb, if_pos ⟨rfl, rfl⟩, bitLine_beq]

theorem engineWrite_bit_receiving (bit : Bool) (h : r.sgb.Receiving 0b11 p b k v) (hp : p < 7) (hb : b < 16)
    (hk : k < 7) : (engineWrite c (bitLine bit) r).sgb.Receiving (bitLine bit) p b (k + 1) (shiftedByte bit v) := by
  have htaken := h.bitTaken bit
  obtain ⟨-, hs, hw, rfl, rfl, rfl, rfl⟩ := h
  refine multiplayerStep_receiving ?_
  rw [lineStep_bit_midPacket htaken (by omega) hb (by omega)]
  refine ⟨rfl, hs, hw, rfl, ?byte, ?bit, ?value⟩
  case byte =>
    show r.sgb.currbyte + (r.sgb.currbit + 1) / 8 = r.sgb.currbyte
    omega
  case bit => exact Nat.mod_eq_of_lt (by omega)
  case value => rw [tabGet_shiftedBuffer _ hp hb, if_pos ⟨rfl, rfl⟩, bitLine_beq]

/-- After a bit that is not the last of its byte the engine waits for the next one. -/
theorem engineWrites_bitWrites_receiving (bit : Bool) (h : r.sgb.Receiving 0b11 p b k v) (hp : p < 7) (hb : b < 16)
    (hk : k < 7) : (engineWrites c (bitWrites bit) r).sgb.Receiving 0b11 p b (k + 1) (shiftedByte bit v) := by
  rw [engineWrites_bitWrites]
  exact engineWrite_idle_receiving (engineWrite_bit_receiving bit h hp hb hk)

end

/-- The bits shifted into a byte, first one first. -/
def shiftedBits (bits : List Bool) (v : Byte) : Byte := bits.foldl (fun w bit => shiftedByte bit w) v

/-- The bits taken from the start of a byte until its end, as the byte at the cursors holds them then. -/
theorem engineWrites_bits_value {c : Config} {p b : Nat} (hp : p < 7) (hb : b < 16) (bits : List Bool) {r : SgbRun}
    {k : Nat} {v : Byte} (h : r.sgb.Receiving 0b11 p b k v) (hlen : k + bits.length ≤ 8) :
    tabGet (engineWrites c (bits.flatMap bitWrites) r).sgb.data p b = shiftedBits bits v := by
  induction bits generalizing r k v with
  | nil => exact h.value
  | cons bit bits ih =>
    rw [List.length_cons] at hlen
    rw [List.flatMap_cons, engineWrites_append]
    by_cases h7 : k = 7
    · obtain rfl : bits = [] := List.length_eq_zero_iff.mp (by omega)
      exact engineWrites_bitWrites_value bit h hp hb
    · exact ih (engineWrites_bitWrites_receiving bit h hp hb (by omega)) (by omega)

/-- Bit `i` of a byte after bits are shifted into it: one of the byte's own, moved down, or one of those shifted in. -/
theorem getLsbD_shiftedBits (bits : List Bool) (v : Byte) {i : Nat} (hi : i < 8) : (shiftedBits bits v).getLsbD i =
    if i + bits.length < 8 then v.getLsbD (i + bits.length) else (bits[i + bits.length - 8]?).getD false := by
  induction bits generalizing v with
  | nil => simp [shiftedBits, hi]
  | cons bit bits ih =>
    have hcons : shiftedBits (bit :: bits) v = shiftedBits bits (shiftedByte bit v) := rfl
    rw [hcons, ih, List.length_cons, ← Nat.add_assoc]
    rcases Nat.lt_trichotomy (i + bits.length) 7 with h | h | h
    · rw [if_pos (by omega), if_pos (by omega), getLsbD_shiftedByte _ _ (by omega), if_neg (by omega)]
    · rw [if_pos (by omega), if_neg (by omega), getLsbD_shiftedByte _ _ (by omega), if_pos h, h]
      rfl
    · have hsucc : i + bits.length + 1 - 8 = i + bits.length - 8 + 1 := by omega
      rw [if_neg (by omega), if_neg (by omega), hsucc, List.getElem?_cons_succ]

/-- Eight bits fill the byte, the first of them lowest, whatever it held. -/
theorem bitOf_shiftedBits {bits : List Bool} (hlen : bits.length = 8) (v : Byte) {i : Nat} (hi : i < 8) :
    bitOf (shiftedBits bits v) i = if bits[i]? = some true then 1 else 0 := by
  have hlt : i < bits.length := by omega
  have hindex : i + bits.length - 8 = i := by omega
  rw [← toNat_ofBool_getLsbD, getLsbD_shiftedBits bits v hi, if_neg (by omega), hindex,
    List.getElem?_eq_getElem hlt]
  cases bits[i] <;> rfl

/-! ## The obligations -/

/-- Settles O46: the four situations are the four branches of the reset pulse. -/
theorem resetPulseByEngineState : Obligations.ResetPulseByEngineState := by
  unfold Obligations.ResetPulseByEngineState
  intro c g n
  rw [lineStep_resetPulse]
  refine ⟨fun hs => ?idle, fun hs hw => ?between, fun hs hw hc => ?start, fun hs hw hc => ?mid⟩
  case idle => rw [resetPulse_idle hs]
  case between => rw [resetPulse_betweenPackets hs hw]
  case start => rw [resetPulse_packetStart hs hw hc]
  case mid => rw [resetPulse_midPacket hs hw hc]

/-- Settles O47: the hypothesis says that no bit is taken. -/
theorem otherLineEventsChangeOnlyPrevSel : Obligations.OtherLineEventsChangeOnlyPrevSel := by
  unfold Obligations.OtherLineEventsChangeOnlyPrevSel
  intro c g n sel h0 h
  rw [← bitTaken_iff, Bool.not_eq_true] at h
  rw [lineStep_notTaken h0 h]

/-- Settles O48: the cursors of a packet being received stand inside the buffer, so the bit lands in their byte; eight
bits push out all that the byte held. -/
theorem bitsShiftIntoTheByteAtTheCursors : Obligations.BitsShiftIntoTheByteAtTheCursors := by
  unfold Obligations.BitsShiftIntoTheByteAtTheCursors
  refine ⟨fun c g n sel hinv hsel hprev hs hw hlast => ⟨?line, ?byte, fun p b hpb => ?other⟩,
    fun c g n bits hinv hprev hs hw hk hlen k hk8 => ?bits⟩
  case line =>
    exact lineStep_bit_midPacket ((bitTaken_iff sel g).mpr ⟨hsel, hprev, hs, hw⟩) hinv.bit hinv.byte hlast
  case byte =>
    rw [tabGet_shiftedBuffer sel (hinv.currpacket_lt hs) hinv.byte, if_pos ⟨rfl, rfl⟩, toNat_shiftedByte]
    simp only [beq_iff_eq]
  case other => rw [tabGet_shiftedBuffer sel (hinv.currpacket_lt hs) hinv.byte, if_neg hpb]
  case bits =>
    have hstart : g.Receiving 0b11 g.currpacket g.currbyte 0 (tabGet g.data g.currpacket g.currbyte) :=
      ⟨hprev, hs, hw, rfl, rfl, hk, rfl⟩
    rw [engineWrites_bits_value (hinv.currpacket_lt hs) hinv.byte bits hstart (by omega), bitOf_shiftedBits hlen _ hk8]

end Sys2Proof.Machine
end

section
/-! PROOFS. The SGB commands (44_sgb_packet_engine.md R342 to R360): what each leaves in the tables as numbers, and that
it writes no other field. -/

namespace Sys2Proof.Machine

section
variable (g : SgbState) (n : Nat)

/-! ## Packet bytes and words -/

theorem le16_toNat_eq_packetWord (i : Nat) : (le16 g i).toNat = packetWord g i := le16_toNat g i

theorem trnWord_toNat (k : Nat) :
    (trnWord n k).toNat = (Config.trnBlock n k).toNat + 256 * (Config.trnBlock n (k + 1)).toNat :=
  toNat_append_byte _ _

/-- A palette number is the low nine bits of its word (44_sgb_packet_engine.md R344). -/
theorem palSetNumber_eq_mod (i : Nat) : palSetNumber g i = packetWord g (1 + 2 * i) % 512 := by
  rw [← le16_toNat_eq_packetWord]
  exact Nat.and_two_pow_sub_one_eq_mod _ 9

theorem toNat_extract_low6 (v : Byte) : (v.extractLsb' 0 6).toNat = v.toNat % 64 := by
  simp

theorem extract_low2 (v : Byte) : v.extractLsb' 0 2 = BitVec.ofNat 2 (v.toNat % 4) := by
  apply BitVec.eq_of_toNat_eq
  simp

theorem getLsbD_zero_eq_decide (v : Byte) : v.getLsbD 0 = decide (v.toNat % 2 = 1) := by
  rw [Bool.eq_iff_iff, getLsbD_iff_bitOf, decide_eq_true_iff, bitOf, Nat.pow_zero, Nat.div_one]

/-! ## PAL01, PAL23, PAL03, PAL12 (R343) -/

/-- The four codes name two palettes of 0..3 each. -/
theorem paletteCode_cases {code : BitVec 5} {a b : Nat}
    (h : (code, a, b) ∈ [((0x00 : BitVec 5), 0, 1), (0x01, 2, 3), (0x02, 0, 3), (0x03, 1, 2)]) :
    applyCommand (sgbCmdOf code) n g = cmdPalette a b g ∧ a < 4 ∧ b < 4 ∧ a ≠ b := by
  simp only [List.mem_cons, Prod.mk.injEq, List.not_mem_nil, or_false] at h
  obtain ⟨rfl, rfl, rfl⟩ | ⟨rfl, rfl, rfl⟩ | ⟨rfl, rfl, rfl⟩ | ⟨rfl, rfl, rfl⟩ := h <;>
    exact ⟨by simp only [sgbCmdOf, BitVec.reduceToNat, applyCommand], by decide⟩

theorem cmdPalette_eq (a b : Nat) : cmdPalette a b g = { g with palette := (cmdPalette a b g).palette } := rfl

section
variable {a b k c : Nat}

theorem tabGet_cmdPalette (hk : k < 8) (hc : c < 16) :
    tabGet (cmdPalette a b g).palette k c =
      if k < 4 ∧ c = 0 then le16 g 1
      else if k = a ∧ 1 ≤ c ∧ c ≤ 3 then le16 g (1 + 2 * c)
      else if k = b ∧ 1 ≤ c ∧ c ≤ 3 then le16 g (7 + 2 * c)
      else tabGet g.palette k c := by
  simp only [cmdPalette, tabGet_tabOf _ _ _ _ _ hk hc]

theorem tabGet_cmdPalette_shared (hk : k < 4) :
    (tabGet (cmdPalette a b g).palette k 0).toNat = packetWord g 1 := by
  rw [tabGet_cmdPalette g (by omega) (by omega), if_pos ⟨hk, rfl⟩, le16_toNat_eq_packetWord]

theorem tabGet_cmdPalette_first (ha : a < 4) (hc : 1 ≤ c ∧ c ≤ 3) :
    (tabGet (cmdPalette a b g).palette a c).toNat = packetWord g (1 + 2 * c) := by
  rw [tabGet_cmdPalette g (by omega) (by omega), if_neg (by omega), if_pos ⟨rfl, hc⟩, le16_toNat_eq_packetWord]

theorem tabGet_cmdPalette_second (hb : b < 4) (hab : a ≠ b) (hc : 1 ≤ c ∧ c ≤ 3) :
    (tabGet (cmdPalette a b g).palette b c).toNat = packetWord g (7 + 2 * c) := by
  rw [tabGet_cmdPalette g (by omega) (by omega), if_neg (by omega), if_neg (by omega), if_pos ⟨rfl, hc⟩,
    le16_toNat_eq_packetWord]

theorem tabGet_cmdPalette_other (hk : k < 8) (hc : c < 16) (h0 : ¬(k < 4 ∧ c = 0))
    (hab : ¬((k = a ∨ k = b) ∧ c < 4)) : tabGet (cmdPalette a b g).palette k c = tabGet g.palette k c := by
  rw [tabGet_cmdPalette g hk hc, if_neg h0, if_neg (by omega), if_neg (by omega)]

end

/-! ## The applied grid (R344, R347) -/

theorem tabGet_appliedAtf {k : Nat} (hk : k < 45) (ty tx : Nat) :
    tabGet (appliedAtf g k) ty tx = atfCell g k ty tx := by
  simp [appliedAtf, atfCell, hk]

theorem appliedAtf_outOfRange {k : Nat} (hk : 45 ≤ k) : appliedAtf g k = g.curAtf := by
  simp [appliedAtf, hk]

/-! ## PAL_SET (R344) -/

theorem applyCommand_palSet : applyCommand (sgbCmdOf 0x0A) n g = cmdPalSet g := by
  simp only [sgbCmdOf, BitVec.reduceToNat, applyCommand]

theorem cmdPalSet_eq : cmdPalSet g = { g with
    palette := (cmdPalSet g).palette
    curAtf := (cmdPalSet g).curAtf
    freezeScreen := (cmdPalSet g).freezeScreen } := rfl

section
variable {k c : Nat}

theorem tabGet_cmdPalSet (hk : k < 8) (hc : c < 16) :
    tabGet (cmdPalSet g).palette k c =
      if k < 4 ∧ c = 0 then tabGet g.snesPalette (palSetNumber g 0) 0
      else if k < 4 ∧ c < 4 then tabGet g.snesPalette (palSetNumber g k) c
      else tabGet g.palette k c := by
  simp only [cmdPalSet, tabGet_tabOf _ _ _ _ _ hk hc]

theorem tabGet_cmdPalSet_shared (hk : k < 4) :
    tabGet (cmdPalSet g).palette k 0 = tabGet g.snesPalette (packetWord g 1 % 512) 0 := by
  rw [tabGet_cmdPalSet g (by omega) (by omega), if_pos ⟨hk, rfl⟩, palSetNumber_eq_mod]

theorem tabGet_cmdPalSet_selected (hk : k < 4) (h1 : 1 ≤ c) (hc : c < 4) :
    tabGet (cmdPalSet g).palette k c = tabGet g.snesPalette (packetWord g (1 + 2 * k) % 512) c := by
  rw [tabGet_cmdPalSet g (by omega) (by omega), if_neg (by omega), if_pos ⟨hk, hc⟩, palSetNumber_eq_mod]

theorem tabGet_cmdPalSet_other (hk : k < 8) (hc : c < 16) (h : 4 ≤ k ∨ 4 ≤ c) :
    tabGet (cmdPalSet g).palette k c = tabGet g.palette k c := by
  rw [tabGet_cmdPalSet g hk hc, if_neg (by omega), if_neg (by omega)]

end

/-- Bit 7 of byte 9 asks for the file numbered by its low six bits. -/
theorem cmdPalSet_curAtf : (cmdPalSet g).curAtf =
    if (packet0 g 9).toNat / 128 = 1 then appliedAtf g ((packet0 g 9).toNat % 64) else g.curAtf := by
  have hbit : (packet0 g 9).getLsbD 7 = true ↔ (packet0 g 9).toNat / 128 = 1 := by
    rw [getLsbD_iff_bitOf, bitOf]
    omega
  simp only [cmdPalSet, hbit, toNat_extract_low6]

/-- Bit 6 of a flags byte cancels the mask. -/
theorem getLsbD_six_iff (v : Byte) : v.getLsbD 6 = true ↔ v.toNat / 64 % 2 = 1 := getLsbD_iff_bitOf v 6

theorem cmdPalSet_freezeScreen : (cmdPalSet g).freezeScreen =
    if (packet0 g 9).toNat / 64 % 2 = 1 then 0 else g.freezeScreen := by
  simp only [cmdPalSet, getLsbD_six_iff]

/-! ## PAL_TRN, ATTR_TRN, PCT_TRN (R345, R346, R352) -/

theorem applyCommand_palTrn : applyCommand (sgbCmdOf 0x0B) n g = cmdPalTrn n g := by
  simp only [sgbCmdOf, BitVec.reduceToNat, applyCommand]

theorem applyCommand_attrTrn : applyCommand (sgbCmdOf 0x15) n g = cmdAttrTrn n g := by
  simp only [sgbCmdOf, BitVec.reduceToNat, applyCommand]

theorem applyCommand_pctTrn : applyCommand (sgbCmdOf 0x14) n g = cmdPctTrn n g := by
  simp only [sgbCmdOf, BitVec.reduceToNat, applyCommand]

theorem cmdPalTrn_eq : cmdPalTrn n g = { g with snesPalette := (cmdPalTrn n g).snesPalette } := rfl

theorem cmdAttrTrn_eq : cmdAttrTrn n g = { g with atfList := (cmdAttrTrn n g).atfList } := rfl

theorem cmdPctTrn_eq : cmdPctTrn n g = { g with palette := (cmdPctTrn n g).palette } := rfl

section
variable {k c ty tx : Nat}

theorem tabGet_cmdPalTrn (hk : k < 512) (hc : c < 4) :
    tabGet (cmdPalTrn n g).snesPalette k c = trnWord n (8 * k + 2 * c) := by
  simp only [cmdPalTrn, tabGet_tabOf _ _ _ _ _ hk hc]

theorem atfCell_cmdAttrTrn (hk : k < 45) (hy : ty < 18) (hx : tx < 20) :
    atfCell (cmdAttrTrn n g) k ty tx = trnCell n k ty tx := by
  simp [atfCell, cmdAttrTrn, hk, tabGet_tabOf _ _ _ _ _ hy hx]

/-- A cell is two bits of its byte, the leftmost cell highest (44_sgb_packet_engine.md R346). -/
theorem trnCell_toNat : (trnCell n k ty tx).toNat =
    (Config.trnBlock n (90 * k + 5 * ty + tx / 4)).toNat / 2 ^ (6 - 2 * (tx % 4)) % 4 := by
  simp [trnCell, Nat.shiftRight_eq_div_pow]

theorem tabGet_cmdPctTrn_picture (hk : k < 4) (hc : c < 16) :
    tabGet (cmdPctTrn n g).palette (4 + k) c = trnWord n (0x800 + 32 * k + 2 * c) := by
  have hk8 : 4 + k < 8 := by omega
  simp only [cmdPctTrn, tabGet_tabOf _ _ _ _ _ hk8 hc, Nat.le_add_right, if_true, Nat.add_sub_cancel_left]

theorem tabGet_cmdPctTrn_screen (hk : k < 4) (hc : c < 16) :
    tabGet (cmdPctTrn n g).palette k c = tabGet g.palette k c := by
  have hk8 : k < 8 := by omega
  simp only [cmdPctTrn, tabGet_tabOf _ _ _ _ _ hk8 hc, Nat.not_le.mpr hk, if_false]

end

/-! ## ATTR_SET, MASK_EN, MLT_REQ, ATRC_EN, TEST_EN (R347 to R351) -/

theorem applyCommand_attrSet : applyCommand (sgbCmdOf 0x16) n g = cmdAttrSet g := by
  simp only [sgbCmdOf, BitVec.reduceToNat, applyCommand]

theorem cmdAttrSet_eq : cmdAttrSet g = { g with
    curAtf := appliedAtf g ((packet0 g 1).toNat % 64)
    freezeScreen := if (packet0 g 1).toNat / 64 % 2 = 1 then 0 else g.freezeScreen } := by
  simp only [cmdAttrSet, getLsbD_six_iff, toNat_extract_low6]

theorem applyCommand_maskEn : applyCommand (sgbCmdOf 0x17) n g =
    { g with freezeScreen := BitVec.ofNat 2 ((packet0 g 1).toNat % 4) } := by
  simp only [sgbCmdOf, BitVec.reduceToNat, applyCommand, cmdMaskEn, extract_low2]

theorem applyCommand_mltReq : applyCommand (sgbCmdOf 0x11) n g =
    { g with multiplayer := BitVec.ofNat 2 ((packet0 g 1).toNat % 4), currentJoypad := 0, readJoypad := false } := by
  simp only [sgbCmdOf, BitVec.reduceToNat, applyCommand, cmdMltReq, extract_low2]

theorem applyCommand_atrcEn : applyCommand (sgbCmdOf 0x0C) n g =
    { g with attraction := decide ((packet0 g 1).toNat % 2 = 0) } := by
  have hclear : (!(packet0 g 1).getLsbD 0) = decide ((packet0 g 1).toNat % 2 = 0) := by
    rw [getLsbD_zero_eq_decide, ← decide_not]
    simp only [Nat.mod_two_ne_one]
  simp only [sgbCmdOf, BitVec.reduceToNat, applyCommand, cmdAtrcEn, hclear]

theorem applyCommand_testEn : applyCommand (sgbCmdOf 0x0D) n g =
    { g with speedTest := decide ((packet0 g 1).toNat % 2 = 1) } := by
  simp only [sgbCmdOf, BitVec.reduceToNat, applyCommand, cmdTestEn, getLsbD_zero_eq_decide]

/-! ## Region edits and the commands with no effect (R359, R360) -/

theorem sgbCmdOf_region {code : BitVec 5} (h : 4 ≤ code.toNat ∧ code.toNat ≤ 7) :
    sgbCmdOf code ∈ [.attrBlk, .attrLin, .attrDiv, .attrChr] := by
  revert code
  decide

theorem sgbCmdOf_inert {code : BitVec 5}
    (h : code.toNat ∈ [0x08, 0x09, 0x0E, 0x0F, 0x10, 0x12, 0x13, 0x18] ∨ 0x19 ≤ code.toNat) : sgbCmdOf code ∈
    [.sound, .souTrn, .iconEn, .dataSnd, .dataTrn, .jump, .chrTrn, .objTrn, .noCommand] := by
  revert code
  decide

theorem applyCommand_region {cmd : SgbCmd} (h : cmd ∈ [.attrBlk, .attrLin, .attrDiv, .attrChr]) :
    applyCommand cmd n g = cmdAttrEdit n g := by
  simp only [List.mem_cons, List.not_mem_nil, or_false] at h
  obtain rfl | rfl | rfl | rfl := h <;> simp only [applyCommand]

theorem applyCommand_inert {cmd : SgbCmd}
    (h : cmd ∈ [.sound, .souTrn, .iconEn, .dataSnd, .dataTrn, .jump, .chrTrn, .objTrn, .noCommand]) :
    applyCommand cmd n g = g := by
  simp only [List.mem_cons, List.not_mem_nil, or_false] at h
  obtain rfl | rfl | rfl | rfl | rfl | rfl | rfl | rfl | rfl := h <;> simp only [applyCommand]

theorem cmdAttrEdit_eq : cmdAttrEdit n g = { g with curAtf := (cmdAttrEdit n g).curAtf } := rfl

theorem tabGet_cmdAttrEdit {ty tx : Nat} (hy : ty < 18) (hx : tx < 20) :
    tabGet (cmdAttrEdit n g).curAtf ty tx = Config.attrEdit n ty tx := by
  simp only [cmdAttrEdit, tabGet_tabOf _ _ _ _ _ hy hx]

end

/-! ## The obligations -/

/-- Settles O51: each of the four codes is the palette command of its two palettes, which differ. -/
theorem paletteCommandsWriteTwoPalettes : Obligations.PaletteCommandsWriteTwoPalettes := by
  unfold Obligations.PaletteCommandsWriteTwoPalettes
  intro g n code a b h
  obtain ⟨hcmd, ha, hb, hab⟩ := paletteCode_cases g n h
  rw [hcmd]
  exact ⟨fun k hk => tabGet_cmdPalette_shared g hk,
    tabGet_cmdPalette_first g ha (by decide), tabGet_cmdPalette_first g ha (by decide),
    tabGet_cmdPalette_first g ha (by decide), tabGet_cmdPalette_second g hb hab (by decide),
    tabGet_cmdPalette_second g hb hab (by decide), tabGet_cmdPalette_second g hb hab (by decide),
    fun k c hk hc h0 hother => tabGet_cmdPalette_other g hk hc h0 hother, cmdPalette_eq g a b⟩

/-- Settles O52: the palettes, the grid and the mask are each read off the command's own update. -/
theorem palSetSelectsFourPalettes : Obligations.PalSetSelectsFourPalettes := by
  unfold Obligations.PalSetSelectsFourPalettes
  intro g n
  rw [applyCommand_palSet]
  intro t flags
  refine ⟨fun k hk => tabGet_cmdPalSet_shared g hk, fun k c hk h1 hc => tabGet_cmdPalSet_selected g hk h1 hc,
    fun k c hk hc h => tabGet_cmdPalSet_other g hk hc h, fun h7 hfile ty tx => ?file, fun h => ?noFile,
    cmdPalSet_freezeScreen g, cmdPalSet_eq g⟩
  case file =>
    have hcur : t.curAtf = appliedAtf g (flags % 64) := (cmdPalSet_curAtf g).trans (if_pos h7)
    rw [hcur, tabGet_appliedAtf g hfile]
  case noFile =>
    rw [cmdPalSet_curAtf]
    split_ifs with h7
    · exact appliedAtf_outOfRange g (Nat.le_of_not_lt fun hfile => h ⟨h7, hfile⟩)
    · rfl

/-- Settles O53: each command lays out the block as a table, whose cells are words or bit pairs of its bytes. -/
theorem transferCommandsLayOutTheBlock : Obligations.TransferCommandsLayOutTheBlock := by
  unfold Obligations.TransferCommandsLayOutTheBlock
  intro g n
  rw [applyCommand_palTrn, applyCommand_attrTrn, applyCommand_pctTrn]
  refine ⟨⟨fun k c hk hc => ?palTrn, cmdPalTrn_eq g n⟩, ⟨fun k ty tx hk hy hx => ?attrTrn, cmdAttrTrn_eq g n⟩,
    ⟨fun k c hk hc => ?pctTrn, fun k c hk hc => tabGet_cmdPctTrn_screen g n hk hc, cmdPctTrn_eq g n⟩⟩
  case palTrn => rw [tabGet_cmdPalTrn g n hk hc, trnWord_toNat]
  case attrTrn => rw [atfCell_cmdAttrTrn g n hk hy hx, trnCell_toNat]
  case pctTrn => rw [tabGet_cmdPctTrn_picture g n hk hc, trnWord_toNat]

/-- Settles O54: each command is an update of its own fields by bits of byte 1. -/
theorem modeCommandsSetTheirFields : Obligations.ModeCommandsSetTheirFields := by
  unfold Obligations.ModeCommandsSetTheirFields
  intro g n
  refine ⟨?attrSet, applyCommand_maskEn g n, applyCommand_mltReq g n, applyCommand_atrcEn g n,
    applyCommand_testEn g n⟩
  case attrSet =>
    rw [applyCommand_attrSet, cmdAttrSet_eq]
    exact ⟨fun hfile ty tx => tabGet_appliedAtf g hfile ty tx, fun hfile => appliedAtf_outOfRange g hfile, rfl, rfl⟩

/-- Settles O55: the four region codes name commands with one and the same effect, the others commands with none. -/
theorem regionEditsAreFreeAndOthersInert : Obligations.RegionEditsAreFreeAndOthersInert := by
  unfold Obligations.RegionEditsAreFreeAndOthersInert
  intro g n code
  refine ⟨fun h => ?region, fun h => applyCommand_inert g n (sgbCmdOf_inert h)⟩
  case region =>
    rw [applyCommand_region g n (sgbCmdOf_region h)]
    exact ⟨fun ty tx hy hx => tabGet_cmdAttrEdit g n hy hx, cmdAttrEdit_eq g n⟩

end Sys2Proof.Machine
end

section
/-! PROOFS. Multiplayer polling (44_sgb_packet_engine.md R365, R370): when it is active, the step a P1 write runs, and
the byte a P1 read composes. -/

namespace Sys2Proof.Machine

/-! ## When multiplayer is active -/

/-- Multiplayer is active in the two modes that have more than one player (10_state.md R53). -/
theorem multiplayerActive_iff (g : SgbState) : multiplayerActive g = true ↔ g.multiplayer = 1 ∨ g.multiplayer = 3 := by
  have hmodes : ∀ m : U2, 1 < players m ↔ m = 1 ∨ m = 3 := by decide
  rw [multiplayerActive, decide_eq_true_iff, hmodes]

/-! ## The multiplayer step (R365) -/

section
variable {g : SgbState} {sel : U2}

theorem multiplayerStep_inactive (h : ¬multiplayerActive g = true) : multiplayerStep sel g = g := by
  rw [multiplayerStep, if_neg h]

theorem multiplayerStep_select (h : multiplayerActive g = true) (hsel : sel ≠ 0b11) :
    multiplayerStep sel g = { g with readJoypad := true } := by
  rw [multiplayerStep, if_pos h, if_neg hsel]

theorem multiplayerStep_idle_unarmed (h : multiplayerActive g = true) (hr : g.readJoypad = false) :
    multiplayerStep 0b11 g = g := by
  rw [multiplayerStep, if_pos h, if_pos rfl, hr]
  rfl

theorem multiplayerStep_idle_armed {n : Nat} (h : multiplayerActive g = true) (hr : g.readJoypad = true)
    (hn : players g.multiplayer = n) : multiplayerStep 0b11 g = { g with
      currentJoypad := BitVec.ofNat 2 ((g.currentJoypad.toNat + 1) % n)
      readJoypad := false } := by
  rw [multiplayerStep, if_pos h, if_pos rfl, if_pos hr, hn]

end

/-! ## The P1 read (R370) -/

section
variable {s : State}

theorem toNat_lines (s : State) : s.lines.toNat = (s.memRead .io 0).toNat / 16 % 4 := by
  rw [State.lines, lineValue_eq_ofNat, BitVec.toNat_ofNat, Nat.mod_eq_of_lt (Nat.mod_lt _ (by decide))]
  rfl

/-- The three parts of the byte stand in bits of their own. -/
theorem toNat_p1Read (s : State) : s.p1Read.toNat = 192 + 16 * s.lines.toNat + s.p1Low.toNat := by
  have hjoin : ∀ (l : U2) (low : BitVec 4),
      ((0xC0 : Byte) ||| (l.setWidth 8 <<< 4) ||| low.setWidth 8).toNat = 192 + 16 * l.toNat + low.toNat := by decide
  exact hjoin s.lines s.p1Low

theorem p1Low_identity (h : s.sgbPresent = true ∧ multiplayerActive s.sgb = true) (hsel : s.lines = 0b11) :
    s.p1Low.toNat = 15 - s.sgb.currentJoypad.toNat := by
  have hsub : ∀ j : U2, ((0xF : BitVec 4) - j.setWidth 4).toNat = 15 - j.toNat := by decide
  rw [State.p1Low, if_pos (by simpa using h), if_pos hsel, hsub]

theorem p1Low_currentJoypad (h : s.sgbPresent = true ∧ multiplayerActive s.sgb = true) (hsel : s.lines ≠ 0b11) :
    s.p1Low = joypadLines s.cfg s.sgb.currentJoypad.toNat s.lines.toNat := by
  rw [State.p1Low, if_pos (by simpa using h), if_neg hsel]

theorem p1Low_joypad0 (h : ¬(s.sgbPresent = true ∧ multiplayerActive s.sgb = true)) :
    s.p1Low = joypadLines s.cfg 0 s.lines.toNat := by
  rw [State.p1Low, if_neg (by simpa using h)]

theorem exec_ioRd_p1 (s : State) : exec (.ioRd 0) s = .next (s.respond (.byte s.p1Read)) := rfl

end

/-! ## The obligations -/

/-- Settles O57: a P1 write runs the multiplayer step on the record the line step left, and its cases are those of
R365. -/
theorem multiplayerStepAdvancesOnIdle : Obligations.MultiplayerStepAdvancesOnIdle := by
  unfold Obligations.MultiplayerStepAdvancesOnIdle
  intro c sel r g t
  have ht : t = multiplayerStep sel g := rfl
  rw [ht]
  refine ⟨fun h => ?inactive, fun h hsel => ?select, fun h hsel hr => ?unarmed, fun h hsel hr => ?twoPlayers,
    fun h hsel hr => ?fourPlayers⟩
  case inactive => exact multiplayerStep_inactive (by rw [multiplayerActive_iff]; tauto)
  case select => exact multiplayerStep_select ((multiplayerActive_iff g).mpr h) hsel
  case unarmed =>
    subst hsel
    exact multiplayerStep_idle_unarmed ((multiplayerActive_iff g).mpr h) hr
  case twoPlayers =>
    subst hsel
    exact multiplayerStep_idle_armed ((multiplayerActive_iff g).mpr (.inl h)) hr (congrArg players h)
  case fourPlayers =>
    subst hsel
    exact multiplayerStep_idle_armed ((multiplayerActive_iff g).mpr (.inr h)) hr (congrArg players h)

/-- Settles O58: the byte joins its three parts, and the low one follows the cases of R370. -/
theorem p1ReadIsComposed : Obligations.P1ReadIsComposed := by
  unfold Obligations.P1ReadIsComposed
  intro s
  refine ⟨_, exec_ioRd_p1 s, ?_⟩
  have hidle : s.lines = 0b11 ↔ s.lines.toNat = 3 := BitVec.toNat_inj.symm
  simp only [← toNat_lines, ← multiplayerActive_iff, toNat_p1Read]
  refine ⟨fun h hsel => ?identity, fun h hsel => ?currentJoypad, fun h => ?joypad0⟩
  case identity => rw [p1Low_identity h (hidle.mpr hsel)]
  case currentJoypad => rw [p1Low_currentJoypad h (mt hidle.mp hsel)]
  case joypad0 => rw [p1Low_joypad0 h]

end Sys2Proof.Machine
end

section
/-! PROOFS. The absent SGB engine (44_sgb_packet_engine.md R313): its reads fault, P1 is a stored register, and no
request sees the record. -/

namespace Sys2Proof.Machine

/-- The state with the SGB record replaced. -/
def State.withRecord (s : State) (g : SgbState) : State := { s with sgb := g }

/-! ## The requests of an absent engine -/

/-- The requests that read the SGB engine (44_sgb_packet_engine.md R313). -/
inductive ReadsEngine : Instr → Prop where
  | status : ReadsEngine .sgbStatus
  | palRd (p : BitVec 3) (c : BitVec 4) : ReadsEngine (.sgbPalRd p c)
  | snespalRd (n : BitVec 9) (c : U2) : ReadsEngine (.sgbSnespalRd n c)
  | atfRd (n : BitVec 6) (tx ty : BitVec 5) : ReadsEngine (.sgbAtfRd n tx ty)
  | curatfRd (tx ty : BitVec 5) : ReadsEngine (.sgbCuratfRd tx ty)
  | pktRd (p : BitVec 3) (b : BitVec 4) : ReadsEngine (.sgbPktRd p b)
  | resolveColor (tx ty : BitVec 5) (shade : U2) : ReadsEngine (.resolveSgbColor tx ty shade)

/-- Every read of the engine checks first that it is present. -/
theorem ReadsEngine.exec_absent {i : Instr} (hi : ReadsEngine i) {s : State} (h : s.sgbPresent = false) :
    exec i s = .next (s.raise ⟨.sgbAbsent, .num 0⟩) := by
  cases hi <;>
    simp only [exec, execSgbStatus, execSgbPalRd, execSgbSnespalRd, execSgbAtfRd, execSgbCuratfRd, execSgbPktRd,
      execResolveSgbColor, State.sgbColor, needSgb_absent h] <;> rfl

theorem p1Low_absent {s : State} (h : s.sgbPresent = false) : s.p1Low = joypadLines s.cfg 0 s.lines.toNat :=
  p1Low_joypad0 (by simp [h])

/-! ## Replacing the record -/

/-- With another record in place of `s.sgb` a run answers the same but for the record, or exactly the same. -/
def RecordUnseen (run : State → Result) (s : State) (g : SgbState) : Prop :=
  ∃ t, run s = .next t ∧
    ((t.sgbPresent = false ∧ run (s.withRecord g) = .next (t.withRecord g)) ∨ run (s.withRecord g) = .next t)

section
variable {run : State → Result} {s : State} {g : SgbState}

/-- A run that answers a response computed without the record. -/
theorem RecordUnseen.of_answer {f : State → Except SpecFault Response} (hrun : ∀ s, run s = answer s (f s))
    (h : s.sgbPresent = false) (hf : f (s.withRecord g) = f s) : RecordUnseen run s g := by
  rw [RecordUnseen, hrun, hrun, hf]
  cases f s with
  | ok v => exact ⟨s.respond v, rfl, .inl ⟨h, rfl⟩⟩
  | error e => exact ⟨s.raise e, rfl, .inl ⟨h, rfl⟩⟩

/-- A run that raises the same fault with any record. -/
theorem RecordUnseen.of_raise {f : SpecFault} (h : s.sgbPresent = false) (hs : run s = .next (s.raise f))
    (hg : run (s.withRecord g) = .next ((s.withRecord g).raise f)) : RecordUnseen run s g :=
  ⟨s.raise f, hs, .inl ⟨h, hg⟩⟩

end

/-- A store does the same to a state with another record, and leaves the engine absent. -/
def KeepsRecord (put : State → State × List SgbCommand) : Prop :=
  ∀ s g, s.sgbPresent = false →
    (put s).1.sgbPresent = false ∧ put (s.withRecord g) = ((put s).1.withRecord g, (put s).2)

theorem withRecord_memWrite (s : State) (g : SgbState) (sp : Space) (i : Nat) (v : Byte) :
    (s.withRecord g).memWrite sp i v = (s.memWrite sp i v).withRecord g := by cases sp <;> rfl

theorem keepsRecord_memWrite (sp : Space) (i : Nat) (v : Byte) : KeepsRecord fun s => (s.memWrite sp i v, []) :=
  fun s g h => ⟨by simpa using h, congrArg (·, []) (withRecord_memWrite s g sp i v)⟩

theorem keepsRecord_vramPut (p : VramPlace) (v : Byte) : KeepsRecord fun s => (s.vramPut p v, []) := by
  cases p with
  | absent => exact fun _ _ h => ⟨h, rfl⟩
  | byteAt i => exact keepsRecord_memWrite .vram i v

/-- An I/O write of an absent engine only stores its byte, at P1 too. -/
theorem ioWrite_absent {s : State} (h : s.sgbPresent = false) (index d : Byte) :
    s.ioWrite index d = (s.memWrite .io index.toNat d, []) := by
  rw [State.ioWrite]
  split_ifs
  · exact p1Write_absent (by simpa using h) d
  · rfl

theorem keepsRecord_ioWrite (index d : Byte) : KeepsRecord fun s => s.ioWrite index d := by
  intro s g h
  have hg : (s.withRecord g).sgbPresent = false := h
  simp only [ioWrite_absent h, ioWrite_absent hg]
  exact keepsRecord_memWrite .io index.toNat d s g h

/-- An Owner-only request whose store sees no record: its checks do not either. -/
theorem StoresForOwner.recordUnseen {α : Type} {op : BitVec 6} {run : State → Result}
    {place : Config → Except SpecFault α} {put : α → State → State × List SgbCommand}
    (hk : StoresForOwner op run place put) (hput : ∀ a, KeepsRecord (put a)) {s : State} (h : s.sgbPresent = false)
    (g : SgbState) : RecordUnseen run s g := by
  cases ha : s.port.agent with
  | observer => exact .of_raise h (hk.run_observer ha) (hk.run_observer (s := s.withRecord g) ha)
  | owner =>
    cases hp : place s.cfg with
    | error f => exact .of_raise h (hk.run_error ha hp) (hk.run_error (s := s.withRecord g) ha hp)
    | ok a =>
      obtain ⟨habsent, hrecord⟩ := hput a s g h
      refine ⟨_, hk.run_ok ha hp, .inl ⟨habsent, ?_⟩⟩
      rw [hk.run_ok (s := s.withRecord g) ha hp, hrecord]
      rfl

theorem oamWr_storesForOwner (index data : Byte) : StoresForOwner 0x04 (exec (.oamWr index data))
    (fun _ => oamByteIndex index) (fun i s => (s.memWrite .oam i data, [])) :=
  .of_commit (fun _ => rfl) fun i => leavesBookkeeping_memWrite .oam i data

theorem palWr_storesForOwner (sel : PalTable) (index data : Byte) : StoresForOwner 0x0C (exec (.palWr sel index data))
    (fun _ => palByteIndex index) (fun i s => (s.memWrite (palSpace sel) i data, [])) :=
  .of_commit (fun _ => rfl) fun i => leavesBookkeeping_memWrite (palSpace sel) i data

theorem ioWr_storesForOwner (index data : Byte) : StoresForOwner 0x0A (exec (.ioWr index data))
    (fun _ => .ok ()) (fun _ s => s.ioWrite index data) :=
  ⟨fun _ => rfl, fun _ => leavesBookkeeping_ioWrite index data⟩

theorem sgbEnd_storesForOwner : StoresForOwner 0x29 (exec .sgbEnd) (fun _ => .ok ())
    (fun _ s => ({ s with sgbPresent := false }, [])) :=
  ⟨fun _ => rfl, fun _ => ⟨fun _ => ⟨rfl, rfl, rfl, rfl, rfl⟩, fun _ _ => rfl⟩⟩

theorem ioRead_withRecord {s : State} (h : s.sgbPresent = false) (g : SgbState) (index : Byte) :
    (s.withRecord g).ioRead index = s.ioRead index := by
  have hlow : (s.withRecord g).p1Low = s.p1Low := by
    rw [p1Low_absent h, p1Low_absent (s := s.withRecord g) h]
    rfl
  have hp1 : (s.withRecord g).p1Read = s.p1Read := by
    rw [State.p1Read, State.p1Read, hlow]
    rfl
  rw [State.ioRead, State.ioRead, hp1]
  rfl

/-- SGB_INIT sets every field, whatever the record held (44_sgb_packet_engine.md R311). -/
theorem exec_sgbInit_recordUnseen {s : State} (h : s.sgbPresent = false) (g : SgbState) :
    RecordUnseen (exec .sgbInit) s g := by
  cases ha : s.port.agent with
  | observer => exact .of_raise h (asOwner_observer ha) (asOwner_observer (s := s.withRecord g) ha)
  | owner => exact ⟨_, asOwner_owner ha, .inr (asOwner_owner (s := s.withRecord g) ha)⟩

/-- No request sees the record of an absent engine. -/
theorem exec_recordUnseen (i : Instr) {s : State} (h : s.sgbPresent = false) (g : SgbState) :
    RecordUnseen (exec i) s g := by
  have hreads (hi : ReadsEngine i) : RecordUnseen (exec i) s g :=
    .of_raise h (hi.exec_absent h) (hi.exec_absent (s := s.withRecord g) h)
  cases i
  case sgbStatus | sgbPalRd | sgbSnespalRd | sgbAtfRd | sgbCuratfRd | sgbPktRd | resolveSgbColor =>
    exact hreads (by constructor)
  case vramRd | oamRd | eramRd | eramfRd | palRd | resolveColor | resolveBgColor | decodeTileRow | decodeSprite
      | spriteVisible | rasterSprite =>
    refine .of_answer (fun _ => rfl) h ?_
    rfl
  case composePixel bgci bgpri objci objpri =>
    exact .of_answer (f := fun s => .ok (.layer (s.selectLayer bgci bgpri objci objpri))) (fun _ => rfl) h rfl
  case ioRd index =>
    exact .of_answer (f := fun s => .ok (.byte (s.ioRead index))) (fun _ => rfl) h (by rw [ioRead_withRecord h g])
  case vramWr bank addr data =>
    exact (vram_memoryPort bank addr data).write.recordUnseen (fun p => keepsRecord_vramPut p data) h g
  case eramWr bank addr data =>
    exact (eram_memoryPort bank addr data).write.recordUnseen (fun i => keepsRecord_memWrite .eram i data) h g
  case eramfWr faddr data =>
    exact (eramf_memoryPort faddr data).write.recordUnseen (fun i => keepsRecord_memWrite .eram i data) h g
  case oamWr index data =>
    exact (oamWr_storesForOwner index data).recordUnseen (fun i => keepsRecord_memWrite .oam i data) h g
  case palWr sel index data =>
    exact (palWr_storesForOwner sel index data).recordUnseen (fun i => keepsRecord_memWrite (palSpace sel) i data) h g
  case ioWr index data =>
    exact (ioWr_storesForOwner index data).recordUnseen (fun _ => keepsRecord_ioWrite index data) h g
  case sgbInit => exact exec_sgbInit_recordUnseen h g
  case sgbEnd => exact sgbEnd_storesForOwner.recordUnseen (fun _ _ _ _ => ⟨rfl, rfl⟩) h g

theorem perform_recordUnseen (r : Request) {s : State} (h : s.sgbPresent = false) (g : SgbState) :
    RecordUnseen (perform r) s g := by
  cases hd : decode r.word with
  | ok i =>
    have hrun : perform r = exec i := by
      funext s
      rw [perform, hd]
    rw [hrun]
    exact exec_recordUnseen i h g
  | error e =>
    have hrun (s : State) : perform r s = .next (s.raise (illegalRequest r.word)) := by rw [perform, hd]
    exact .of_raise h (hrun s) (hrun _)

theorem step_recordUnseen {s : State} (h : s.sgbPresent = false) (g : SgbState) : RecordUnseen step s g := by
  cases hp : s.pending with
  | nil => exact ⟨s, step_nil hp, .inl ⟨h, step_nil (s := s.withRecord g) hp⟩⟩
  | cons r rest =>
    rw [RecordUnseen, step_cons hp, step_cons (s := s.withRecord g) hp]
    exact perform_recordUnseen r (s := { s with pending := rest, port := r, index := s.index + 1 }) h g

/-! ## The obligation -/

/-- Settles O44: each read checks for the engine, P1 takes its branches for an absent one, and no step sees the record,
by the request it performs. -/
theorem absentEngineIsUnobservable : Obligations.AbsentEngineIsUnobservable := by
  unfold Obligations.AbsentEngineIsUnobservable
  refine ⟨fun s h => ⟨fun i hi => ?reads, fun d ha => ?p1Write, _, exec_ioRd_p1 s, ?p1Read⟩,
    fun s t g h hstep => ?record⟩
  case reads =>
    have hi : ReadsEngine i := by
      obtain rfl | ⟨p, c, rfl⟩ | ⟨n, c, rfl⟩ | ⟨n, x, y, rfl⟩ | ⟨x, y, rfl⟩ | ⟨p, b, rfl⟩ | ⟨x, y, c, rfl⟩ := hi <;>
        constructor
    exact hi.exec_absent h
  case p1Write =>
    rw [exec_ioWr_owner ha, ioWrite_absent h]
    rfl
  case p1Read => rw [toNat_p1Read, p1Low_absent h, toNat_lines]
  case record =>
    obtain ⟨u, hu, hcases⟩ := step_recordUnseen h g
    obtain rfl : t = u := by simpa [hu] using hstep.symm
    obtain ⟨habsent, hg⟩ | hg := hcases
    · exact ⟨_, hg, rfl, rfl, fun hpresent => by simp [habsent] at hpresent, rfl⟩
    · exact ⟨_, hg, rfl, rfl, fun _ => rfl, rfl⟩

end Sys2Proof.Machine
end

section
/-! PROOFS. What a fault leaves alone and what an Observer gets (60_exceptions.md R404, R411): a fault response is
answered only by raising its fault, and a request open to both agents answers from the hardware, which has no agent. -/

namespace Sys2Proof.Machine

/-! ## A faulting request -/

theorem sameHardware.refl (s : State) : sameHardware s s :=
  ⟨rfl, fun _ _ => rfl, fun _ => rfl, rfl, rfl, rfl⟩

/-- Raising a fault is the only way to answer a fault response. -/
theorem exec_eq_raise_of_fault {i : Instr} {s t : State} {c : FaultCode} {f : FaultInfo} (h : exec i s = .next t)
    (hr : t.reply.resp = .fault c f) : t = s.raise ⟨c, f⟩ := by
  obtain ⟨-, v, hv, rfl⟩ | ⟨-, -, u, ev, -, rfl⟩ | ⟨e, rfl⟩ := exec_cases h
  · obtain rfl : v = .fault c f := hr
    cases hv
  · cases hr
  · cases hr
    rfl

/-! ## The two agents -/

/-- An Observer gets AccessDenied before the operands are checked (30_encoding.md R124 step 3). -/
theorem exec_ownerOnly_observer {i : Instr} {s : State} (h : ownerOnly i = true) (ha : s.port.agent = .observer) :
    exec i s = .next (s.raise ⟨.accessDenied, .num (opcodeOf i).toNat⟩) := by
  obtain ⟨α, place, put, hk⟩ := exec_storesForOwner h
  exact hk.run_observer ha

/-- The request at the port is no hardware. -/
theorem sameHardware_port (s : State) (p : Request) : sameHardware s { s with port := p } :=
  ⟨rfl, fun sp _ => by cases sp <;> rfl, fun sp => by cases sp <;> rfl, rfl, rfl, rfl⟩

/-- The reply of an answer is its response or its fault, whatever state it is answered on. -/
theorem answer_reply_of_answer {s t : State} {r : Except SpecFault Response} (h : answer s r = .next t) (u : State) :
    ∃ t', answer u r = .next t' ∧ t'.reply = t.reply := by
  obtain ⟨v, rfl, rfl⟩ | ⟨f, rfl, rfl⟩ := answer_cases h
  · exact ⟨u.respond v, rfl, rfl⟩
  · exact ⟨u.raise f, rfl, rfl⟩

/-- On the same hardware a request open to both agents gives the same reply. -/
theorem exec_reply_of_sameHardware {i : Instr} {s t u : State} (h : ownerOnly i = false) (hu : sameHardware s u)
    (hexec : exec i s = .next t) : ∃ t', exec i u = .next t' ∧ t'.reply = t.reply := by
  obtain ⟨f, hf⟩ := exec_answersFromHardware h
  rw [hf.run_eq] at hexec
  rw [hf.run_eq, hf.hardware s u hu]
  exact answer_reply_of_answer hexec u

/-! ## The obligations -/

/-- Settles O12: a request that answers a fault has raised it, and raising a fault writes the log and the reply
alone. -/
theorem faultsArePreciseAndWithoutEffect : Obligations.FaultsArePreciseAndWithoutEffect := by
  unfold Obligations.FaultsArePreciseAndWithoutEffect
  intro i s t c f h hr
  obtain rfl := exec_eq_raise_of_fault h hr
  exact ⟨rfl, (sameHardware.refl s).raise _, rfl, rfl, rfl⟩

/-- Settles O14: the list is ownerOnly's own, an Owner-only request checks the agent first, and the agent of any other
is no hardware. -/
theorem ownerOnlyRequestsDenyObservers : Obligations.OwnerOnlyRequestsDenyObservers := by
  unfold Obligations.OwnerOnlyRequestsDenyObservers
  refine ⟨fun i => ?list, fun i s hi ha => ?observer, fun i s t a hi h => ?eitherAgent⟩
  case list => cases i <;> simp [ownerOnly]
  case observer => exact exec_ownerOnly_observer hi ha
  case eitherAgent => exact exec_reply_of_sameHardware hi (sameHardware_port s _) h

end Sys2Proof.Machine
end

section
/-! PROOFS. SGB_INIT and SGB_END (70_reset_and_hazards.md R431, R432): what the Owner's request leaves, and the cells of
the tables after SGB_INIT (10_state.md R47 to R51). -/

namespace Sys2Proof.Machine

/-! ## The Owner's requests -/

theorem exec_sgbInit_owner {s : State} (ha : s.port.agent = .owner) :
    exec .sgbInit s = .next (State.respond { s with sgbPresent := true, sgb := sgbAfterInit } .none) :=
  asOwner_owner ha

theorem exec_sgbEnd_owner {s : State} (ha : s.port.agent = .owner) :
    exec .sgbEnd s = .next (State.respond { s with sgbPresent := false } .none) :=
  sgbEnd_storesForOwner.run_ok ha rfl

/-- The SGB engine stores no byte of any space. -/
theorem noByte_respond_withEngine (s : State) (present : Bool) (g : SgbState) (r : Response) :
    noByte s (State.respond { s with sgbPresent := present, sgb := g } r) := by
  intro sp b
  cases sp <;> rfl

/-! ## The tables after SGB_INIT -/

theorem sgbAfterInit_data {p b : Nat} (hp : p < 7) (hb : b < 16) : tabGet sgbAfterInit.data p b = 0 := by
  simp only [sgbAfterInit, tabGet_tabOf _ _ _ _ _ hp hb]

theorem sgbAfterInit_palette {p c : Nat} (hp : p < 8) (hc : c < 16) :
    tabGet sgbAfterInit.palette p c = if p < 4 ∧ c < 4 then gray15 c else 0 := by
  simp only [sgbAfterInit, tabGet_tabOf _ _ _ _ _ hp hc]

/-- A cell of a screen palette holds its gray (10_state.md R48). -/
theorem sgbAfterInit_palette_gray {p c : Nat} (hp : p < 4) (hc : c < 4) :
    tabGet sgbAfterInit.palette p c = gray15 c := by
  rw [sgbAfterInit_palette (by omega) (by omega), if_pos ⟨hp, hc⟩]

/-- Outside the screen palettes every colour word is 0 (10_state.md R48). -/
theorem sgbAfterInit_palette_zero {p c : Nat} (hp : p < 8) (hc : c < 16) (h : 4 ≤ p ∨ 4 ≤ c) :
    tabGet sgbAfterInit.palette p c = 0 := by
  rw [sgbAfterInit_palette hp hc, if_neg (by omega)]

theorem sgbAfterInit_snesPalette {n c : Nat} (hn : n < 512) (hc : c < 4) : tabGet sgbAfterInit.snesPalette n c = 0 := by
  simp only [sgbAfterInit, tabGet_tabOf _ _ _ _ _ hn hc]

theorem atfCell_sgbAfterInit {n ty tx : Nat} (hn : n < 45) (hy : ty < 18) (hx : tx < 20) :
    atfCell sgbAfterInit n ty tx = 0 := by
  simp [atfCell, sgbAfterInit, hn, tabGet_tabOf _ _ _ _ _ hy hx]

theorem sgbAfterInit_curAtf {ty tx : Nat} (hy : ty < 18) (hx : tx < 20) : tabGet sgbAfterInit.curAtf ty tx = 0 := by
  simp only [sgbAfterInit, tabGet_tabOf _ _ _ _ _ hy hx]

/-! ## The obligations -/

/-- Settles O40: the Owner's SGB_INIT puts `sgbAfterInit` in place of the record; its tables are known cell by cell, and
every other field is read off that state. -/
theorem sgbInitSetsEveryField : Obligations.SgbInitSetsEveryField := by
  unfold Obligations.SgbInitSetsEveryField
  intro s ha
  refine ⟨_, exec_sgbInit_owner ha, rfl, rfl, rfl, rfl, rfl, rfl, rfl, rfl, ?data, ?grays, ?zeros, ?snes, ?files,
    ?applied, rfl, rfl, rfl, rfl, rfl, rfl, rfl, ?bytes, rfl, rfl, rfl, rfl, rfl, rfl⟩
  case data => exact fun _ _ => sgbAfterInit_data
  case grays =>
    intro p hp
    have hgray {c : Nat} (hc : c < 4) := sgbAfterInit_palette_gray hp hc
    exact ⟨hgray (c := 0) (by decide), hgray (c := 1) (by decide), hgray (c := 2) (by decide),
      hgray (c := 3) (by decide)⟩
  case zeros => exact fun _ _ => sgbAfterInit_palette_zero
  case snes => exact fun _ _ => sgbAfterInit_snesPalette
  case files => exact fun _ _ _ => atfCell_sgbAfterInit
  case applied => exact fun _ _ => sgbAfterInit_curAtf
  case bytes => exact noByte_respond_withEngine s true sgbAfterInit .none

/-- Settles O41: the Owner's SGB_END passes the agent check and commits the cleared flag. -/
theorem sgbEndClearsOnlyThePresence : Obligations.SgbEndClearsOnlyThePresence := by
  unfold Obligations.SgbEndClearsOnlyThePresence
  exact fun s ha => exec_sgbEnd_owner ha

end Sys2Proof.Machine
end

section
/-! PROOFS. Encoding and decoding are inverse (30_encoding.md R110 to R124): the fields of an encoded request are its
operands, and the fields of a word that decodes cover all its bits. -/

namespace Sys2Proof

/-! ## The fields of a joined word -/

section
variable {n m lo lo' : Nat}

theorem fieldAt_or (v w : Word) (lo n : Nat) : fieldAt (v ||| w) lo n = fieldAt v lo n ||| fieldAt w lo n :=
  BitVec.extractLsb'_or

theorem fieldAt_place_same (v : BitVec n) (h : lo + n ≤ 32) : fieldAt (place lo v) lo n = v := by
  refine BitVec.eq_of_getLsbD_eq fun k hk => ?_
  have hlt : lo + k < 32 := by omega
  simp [fieldAt, getLsbD_place, hk, hlt, -BitVec.getLsbD_eq_getElem]

theorem fieldAt_place_disjoint (v : BitVec m) (h : lo' + m ≤ lo ∨ lo + n ≤ lo') :
    fieldAt (place lo' v) lo n = 0#n := by
  refine BitVec.eq_of_getLsbD_eq fun k hk => ?_
  by_cases hlo : lo' ≤ lo + k
  · have hout : m ≤ lo + k - lo' := by omega
    simp [fieldAt, getLsbD_place, BitVec.getLsbD_of_ge v _ hout, -BitVec.getLsbD_eq_getElem]
  · simp [fieldAt, getLsbD_place, hlo, -BitVec.getLsbD_eq_getElem]

theorem fieldAt_zero (lo n : Nat) : fieldAt 0#32 lo n = 0#n := BitVec.extractLsb'_zero

/-- A flag is a field of one bit. -/
theorem flagAt_eq_fieldAt (w : Word) (i : Nat) : flagAt w i = (fieldAt w i 1).getLsbD 0 := by
  simp [flagAt, fieldAt, -BitVec.getLsbD_eq_getElem]

theorem resZero_eq_fieldAt (w : Word) (lo n : Nat) : resZero w lo n = decide (fieldAt w lo n = 0#n) := rfl

end

theorem fieldAt_encode_opcode (i : Instr) : fieldAt (encode i) 26 6 = opcodeOf i := by
  have hlow : fieldAt (operandsOf i) 26 6 = 0#6 := by
    cases i <;> simp [operandsOf, fieldAt_or, fieldAt_place_disjoint, fieldAt_zero]
  rw [encode, fieldAt_or, hlow, fieldAt_place_same _ (by decide), BitVec.or_zero]

/-- The opcode chooses the arm, and the arm's fields are the operands in their places. -/
theorem decode_encode (i : Instr) : decode (encode i) = .ok i := by
  rw [decode, fieldAt_encode_opcode]
  cases i <;>
    simp [opcodeOf, encode, operandsOf, ifReserved, resZero_eq_fieldAt, flagAt_eq_fieldAt, fieldAt_or,
      fieldAt_place_disjoint, fieldAt_place_same, palTableOf_bit, -BitVec.getLsbD_eq_getElem]

theorem place_fieldAt (w : Word) (lo n : Nat) :
    place lo (fieldAt w lo n) = w &&& place lo (BitVec.allOnes n) := by
  refine BitVec.eq_of_getLsbD_eq fun k hk => ?_
  by_cases hlo : lo ≤ k
  · by_cases hn : k - lo < n <;> simp [fieldAt, getLsbD_place, hk, hlo, hn, -BitVec.getLsbD_eq_getElem]
  · simp [getLsbD_place, hlo, -BitVec.getLsbD_eq_getElem]

theorem ofBool_flagAt (w : Word) (i : Nat) : BitVec.ofBool (flagAt w i) = fieldAt w i 1 := by
  refine BitVec.eq_of_getLsbD_eq fun k hk => ?_
  obtain rfl : k = 0 := by omega
  simp [flagAt, fieldAt, -BitVec.getLsbD_eq_getElem]

theorem palTableBit_palTableOf (b : Bool) : palTableBit (palTableOf b) = BitVec.ofBool b := by cases b <;> rfl

theorem ifReserved_eq_ok_iff {ok : Bool} {i j : Instr} : ifReserved ok i = .ok j ↔ ok = true ∧ i = j := by
  cases ok <;> simp [ifReserved]

/-- With the opcode in its place, the word of a request is the opcode's bits and the operands. -/
theorem encode_of_opcode {w : Word} {i : Instr} (hop : (fieldAt w 26 6).toNat = (opcodeOf i).toNat) :
    encode i = w &&& place 26 (BitVec.allOnes 6) ||| operandsOf i := by
  rw [encode, ← BitVec.eq_of_toNat_eq hop, place_fieldAt]

/-- A word is its bits under a mask when the bits outside the mask are 0. -/
theorem and_eq_self_of_reserved {w fields reserved : Word} (hr : w &&& reserved = 0#32)
    (hcover : fields ||| reserved = BitVec.allOnes 32) : w &&& fields = w := by
  rw [← BitVec.or_zero (x := w &&& fields), ← hr, ← BitVec.and_or_distrib_left, hcover, BitVec.and_allOnes]

/-- Each arm reads its operands back from the places the encoder puts them in, and its fields, with the reserved bits it
checks, are all 32 bits of the word. -/
theorem encode_of_decode {w : Word} {i : Instr} (h : decode w = .ok i) : encode i = w := by
  unfold decode at h
  split at h
  case h_29 => cases h
  case h_2 hop | h_6 hop =>
    cases h
    rw [encode_of_opcode hop]
    simp only [operandsOf, place_fieldAt, ← BitVec.and_or_distrib_left]
    exact BitVec.and_allOnes
  all_goals
    rename_i hop
    simp only [ifReserved_eq_ok_iff, Bool.and_eq_true, resZero_iff, Nat.reduceAdd, Nat.reduceLeDiff,
      and_eq_zero_and_iff] at h
    obtain ⟨hr, rfl⟩ := h
    rw [encode_of_opcode hop]
    simp only [operandsOf, place_fieldAt, ofBool_flagAt, palTableBit_palTableOf, ← BitVec.and_or_distrib_left,
      BitVec.ofNat_eq_ofNat, BitVec.or_zero]
    exact and_eq_self_of_reserved hr rfl

/-! ## Rows of the opcode map -/

theorem opcodeOf_of_decode {w : Word} {i : Instr} (h : decode w = .ok i) : opcodeOf i = fieldAt w 26 6 := by
  rw [← encode_of_decode h, fieldAt_encode_opcode]

theorem opcodeMap_op_injective : ∀ r ∈ opcodeMap, ∀ r' ∈ opcodeMap, r.op = r'.op → r = r' := by decide

theorem rowOf_eq_some_iff {i : Instr} {r : OpRow} (hr : r ∈ opcodeMap) : rowOf i = some r ↔ r.op = opcodeOf i := by
  constructor
  · intro h
    simpa using List.find?_some h
  · intro h
    cases hi : rowOf i with
    | none => simpa [h] using List.find?_eq_none.mp hi r hr
    | some r' =>
      have hop' : r'.op = opcodeOf i := by simpa using List.find?_some hi
      rw [opcodeMap_op_injective r hr r' (List.mem_of_find?_eq_some hi) (h.trans hop'.symm)]

theorem op_of_matches_row {w : Word} {r : OpRow} (hr : r ∈ opcodeMap) (h : w &&& r.mask = r.matchBits) :
    r.op = fieldAt w 26 6 := (BitVec.eq_of_toNat_eq ((matches_row_iff w hr).mp h).1).symm

theorem row_eq_of_matches {w : Word} {r r' : OpRow} (hr : r ∈ opcodeMap) (hr' : r' ∈ opcodeMap)
    (h : w &&& r.mask = r.matchBits) (h' : w &&& r'.mask = r'.matchBits) : r = r' :=
  opcodeMap_op_injective r hr r' hr' ((op_of_matches_row hr h).trans (op_of_matches_row hr' h').symm)

/-! ## The obligations -/

/-- Settles O1: the opcode of an encoded request chooses its own arm, and fields in different places do not meet. -/
theorem encodeThenDecodeGivesTheRequest : Obligations.EncodeThenDecodeGivesTheRequest := by
  unfold Obligations.EncodeThenDecodeGivesTheRequest
  exact decode_encode

/-- Settles O2: the fields an arm reads and the reserved bits it checks cover the word. -/
theorem decodeThenEncodeGivesTheWord : Obligations.DecodeThenEncodeGivesTheWord := by
  unfold Obligations.DecodeThenEncodeGivesTheWord
  exact fun _ _ => encode_of_decode

/-- Settles O3: a word decodes exactly when it matches some row, and request and row are both found by the opcode. -/
theorem wordsDecodeToTheRowTheyMatch : Obligations.WordsDecodeToTheRowTheyMatch := by
  unfold Obligations.WordsDecodeToTheRowTheyMatch
  refine ⟨fun w r hr => ⟨fun h => ?decodes, fun ⟨i, hi, hrow⟩ => ?isMatch⟩,
    fun w r r' hr hr' h h' => row_eq_of_matches hr hr' h h'⟩
  case decodes =>
    obtain ⟨i, hi⟩ := (decode_ok_iff_matches_row w).mpr ⟨r, hr, h⟩
    exact ⟨i, hi, (rowOf_eq_some_iff hr).mpr ((op_of_matches_row hr h).trans (opcodeOf_of_decode hi).symm)⟩
  case isMatch =>
    obtain ⟨r', hr', h'⟩ := (decode_ok_iff_matches_row w).mp ⟨i, hi⟩
    have hop : r.op = r'.op :=
      ((rowOf_eq_some_iff hr).mp hrow).trans ((opcodeOf_of_decode hi).trans (op_of_matches_row hr' h').symm)
    rwa [opcodeMap_op_injective r hr r' hr' hop]

/-- Settles O4: the words are numerals, so the decoder runs on each. -/
theorem writtenOutWordsDecode : Obligations.WrittenOutWordsDecode := by
  unfold Obligations.WrittenOutWordsDecode
  decide

end Sys2Proof
end

section
/-! PROOFS. What a request does, once for all requests: one open to both agents responds, an Owner-only one stores what
`Stores` lists, or a fault is raised. From it: every request takes one step, an Observer changes nothing, reads have no
side effect, each store has its frame, and events come from P1 writes alone. -/

namespace Sys2Proof.Machine

/-! ## The effect of a request -/

/-- What an Owner-only request leaves for the Owner, and the events it emits, once its place check has passed. -/
inductive Stores (s : State) : Instr → State → List SgbCommand → Prop where
  | vramWr {b : BitVec 4} {a : BitVec 14} {d : Byte} {p : VramPlace} (hp : vramIndex s.cfg b.toNat a.toNat = .ok p) :
      Stores s (.vramWr b a d) (s.vramPut p d) []
  | oamWr {x d : Byte} {i : Nat} (hi : oamByteIndex x = .ok i) : Stores s (.oamWr x d) (s.memWrite .oam i d) []
  | eramWr {b : BitVec 4} {a : BitVec 14} {d : Byte} {i : Nat} (hi : eramIndex s.cfg b.toNat a.toNat = .ok i) :
      Stores s (.eramWr b a d) (s.memWrite .eram i d) []
  | eramfWr {a : BitVec 17} {d : Byte} {i : Nat} (hi : flatIndex s.cfg a = .ok i) :
      Stores s (.eramfWr a d) (s.memWrite .eram i d) []
  | ioWr {x d : Byte} : Stores s (.ioWr x d) (s.ioWrite x d).1 (s.ioWrite x d).2
  | palWr {p : PalTable} {x d : Byte} {i : Nat} (hi : palByteIndex x = .ok i) :
      Stores s (.palWr p x d) (s.memWrite (palSpace p) i d) []
  | sgbInit : Stores s .sgbInit { s with sgbPresent := true, sgb := sgbAfterInit } []
  | sgbEnd : Stores s .sgbEnd { s with sgbPresent := false } []

theorem sgbInit_storesForOwner : StoresForOwner 0x28 (exec .sgbInit) (fun _ => .ok ())
    (fun _ s => ({ s with sgbPresent := true, sgb := sgbAfterInit }, [])) :=
  ⟨fun _ => rfl, fun _ => ⟨fun _ => ⟨rfl, rfl, rfl, rfl, rfl⟩, fun _ _ => rfl⟩⟩

/-- What a request did to answer `t`. -/
def Effect (i : Instr) (s t : State) : Prop :=
  (ownerOnly i = false ∧ ∃ v, t = s.respond v) ∨
  (s.port.agent = .owner ∧ ∃ u ev, Stores s i u ev ∧ t = u.respondWith .none ev) ∨
  ∃ f, t = s.raise f

theorem StoresForOwner.effect {α : Type} {op : BitVec 6} {i : Instr} {place : Config → Except SpecFault α}
    {put : α → State → State × List SgbCommand} (hk : StoresForOwner op (exec i) place put) {s t : State}
    (hst : ∀ a, place s.cfg = .ok a → Stores s i (put a s).1 (put a s).2) (h : exec i s = .next t) : Effect i s t := by
  obtain ⟨ha, a, hp, rfl⟩ | ⟨-, f, -, rfl⟩ | ⟨-, rfl⟩ := hk.cases h
  · exact .inr (.inl ⟨ha, _, _, hst a hp, rfl⟩)
  · exact .inr (.inr ⟨f, rfl⟩)
  · exact .inr (.inr ⟨_, rfl⟩)

theorem exec_effect {i : Instr} {s t : State} (h : exec i s = .next t) : Effect i s t := by
  cases hown : ownerOnly i with
  | false =>
    obtain ⟨-, v, -, rfl⟩ | ⟨htrue, -⟩ | ⟨f, rfl⟩ := exec_cases h
    · exact .inl ⟨hown, v, rfl⟩
    · cases hown.symm.trans htrue
    · exact .inr (.inr ⟨f, rfl⟩)
  | true =>
    cases i
    case vramWr b a d => exact (vram_memoryPort b a d).write.effect (fun _ => .vramWr) h
    case oamWr x d => exact (oamWr_storesForOwner x d).effect (fun _ => .oamWr) h
    case eramWr b a d => exact (eram_memoryPort b a d).write.effect (fun _ => .eramWr) h
    case eramfWr a d => exact (eramf_memoryPort a d).write.effect (fun _ => .eramfWr) h
    case ioWr x d => exact (ioWr_storesForOwner x d).effect (fun _ _ => .ioWr) h
    case palWr p x d => exact (palWr_storesForOwner p x d).effect (fun _ => .palWr) h
    case sgbInit => exact sgbInit_storesForOwner.effect (fun _ _ => .sgbInit) h
    case sgbEnd => exact sgbEnd_storesForOwner.effect (fun _ _ => .sgbEnd) h
    all_goals cases hown

theorem StoresForOwner.total {α : Type} {op : BitVec 6} {run : State → Result} {place : Config → Except SpecFault α}
    {put : α → State → State × List SgbCommand} (hk : StoresForOwner op run place put) (s : State) :
    ∃ t, run s = .next t := by
  cases ha : s.port.agent with
  | observer => exact ⟨_, hk.run_observer ha⟩
  | owner =>
    cases hp : place s.cfg with
    | ok a => exact ⟨_, hk.run_ok ha hp⟩
    | error f => exact ⟨_, hk.run_error ha hp⟩

theorem answer_total (s : State) (r : Except SpecFault Response) : ∃ t, answer s r = .next t := by
  cases r with
  | ok v => exact ⟨_, rfl⟩
  | error f => exact ⟨_, rfl⟩

/-- Every request answers a next state. -/
theorem exec_total (i : Instr) (s : State) : ∃ t, exec i s = .next t := by
  cases hown : ownerOnly i with
  | false =>
    obtain ⟨f, hf⟩ := exec_answersFromHardware hown
    rw [hf.run_eq]
    exact answer_total s _
  | true =>
    obtain ⟨α, place, put, hk⟩ := exec_storesForOwner hown
    exact hk.total s

theorem perform_total (r : Request) (s : State) : ∃ t, perform r s = .next t := by
  unfold perform
  split
  · exact exec_total _ s
  · exact ⟨_, rfl⟩

/-! ## What a request leaves alone -/

/-- A request writes neither the index, the queue nor the port. -/
theorem exec_queue {i : Instr} {s t : State} (h : exec i s = .next t) :
    t.index = s.index ∧ t.pending = s.pending ∧ t.port = s.port := by
  obtain ⟨-, v, -, rfl⟩ | ⟨-, -, u, ev, hu, rfl⟩ | ⟨f, rfl⟩ := exec_cases h
  · exact ⟨rfl, rfl, rfl⟩
  · exact ⟨hu.index, hu.pending, hu.port⟩
  · exact ⟨rfl, rfl, rfl⟩

theorem perform_queue {r : Request} {s t : State} (h : perform r s = .next t) :
    t.index = s.index ∧ t.pending = s.pending ∧ t.port = s.port := by
  obtain ⟨i, -, h⟩ | ⟨e, -, rfl⟩ := perform_cases h
  · exact exec_queue h
  · exact ⟨rfl, rfl, rfl⟩

theorem sameHardware.respond {s t : State} (h : sameHardware s t) (v : Response) : sameHardware s (t.respond v) where
  cfg := h.cfg
  bytes sp a := (respond_memRead t v sp a).trans (h.bytes sp a)
  arrays sp := (respond_space t v sp).trans (h.arrays sp)
  present := h.present
  sgb := h.sgb
  draws := h.draws

/-- Only the Owner's stores change the hardware. -/
theorem Effect.sameHardware {i : Instr} {s₀ s t : State} (h : Effect i s t) (hs : sameHardware s₀ s)
    (hno : ownerOnly i = false ∨ s.port.agent = .observer) : Machine.sameHardware s₀ t := by
  obtain ⟨-, v, rfl⟩ | ⟨ha, u, ev, hst, rfl⟩ | ⟨f, rfl⟩ := h
  · exact hs.respond v
  · rcases hno with hno | hno
    · cases hst <;> cases hno
    · cases ha.symm.trans hno
  · exact hs.raise f

theorem sameControl_respondWith {s u : State} (h : sameControl s u) (r : Response) (ev : List SgbCommand) :
    sameControl s (u.respondWith r ev) := ⟨h.cfg, h.present, h.sgb, h.draws, h.index, h.pending, h.port⟩

theorem sameControl_raise (s : State) (f : SpecFault) : sameControl s (s.raise f) := ⟨rfl, rfl, rfl, rfl, rfl, rfl, rfl⟩

/-- Hardware and queue unchanged: control and bytes are. -/
theorem sameHardware.sameControl {s t : State} (h : sameHardware s t)
    (hq : t.index = s.index ∧ t.pending = s.pending ∧ t.port = s.port) : sameControl s t := by
  obtain ⟨hindex, hpending, hport⟩ := hq
  exact ⟨h.cfg, h.present, h.sgb, h.draws, hindex, hpending, hport⟩

/-! ## Frames of the stores -/

/-- An Owner-only request stores or raises a fault. -/
theorem exec_stores {i : Instr} {s t : State} (hown : ownerOnly i = true) (h : exec i s = .next t) :
    (s.port.agent = .owner ∧ ∃ u ev, Stores s i u ev ∧ t = u.respondWith .none ev) ∨ ∃ f, t = s.raise f :=
  (exec_effect h).resolve_left fun ⟨hno, _⟩ => Bool.false_ne_true (hno.symm.trans hown)

theorem sameControl_memWrite (s : State) (sp : Space) (i : Nat) (d : Byte) : sameControl s (s.memWrite sp i d) := by
  constructor <;> simp

theorem onlyByte_memWrite (s : State) (sp : Space) (i : Nat) (d : Byte) : onlyByte s (s.memWrite sp i d) sp i :=
  fun sp' b h => memRead_memWrite_other s sp sp' i b d h

/-- Control stays, and of the bytes only the one of `sp` that `Reached` names can change. -/
structure FrameOf (s t : State) (sp : Space) (Reached : Nat → Prop) : Prop where
  control : sameControl s t
  reached : ∀ i, Reached i → onlyByte s t sp i
  none : (∀ i, ¬Reached i) → noByte s t

theorem frameOf_memWrite (s : State) (sp : Space) (d : Byte) {place : Except SpecFault Nat} {i : Nat}
    (hi : place = .ok i) : FrameOf s (s.memWrite sp i d) sp fun j => place = .ok j where
  control := sameControl_memWrite s sp i d
  reached j hj := by
    obtain rfl : i = j := Except.ok.inj (hi.symm.trans hj)
    exact onlyByte_memWrite s sp i d
  none hno := absurd hi (hno i)

theorem frameOf_vramPut (s : State) (d : Byte) {place : Except SpecFault VramPlace} {p : VramPlace}
    (hp : place = .ok p) : FrameOf s (s.vramPut p d) .vram fun i => place = .ok (.byteAt i) := by
  cases p with
  | absent =>
    exact ⟨⟨rfl, rfl, rfl, rfl, rfl, rfl, rfl⟩, fun _ _ _ _ _ => rfl, fun _ _ _ => rfl⟩
  | byteAt i =>
    refine ⟨sameControl_memWrite s .vram i d, fun j hj => ?_, fun hno => absurd hp (hno i)⟩
    obtain rfl : i = j := VramPlace.byteAt.inj (Except.ok.inj (hp.symm.trans hj))
    exact onlyByte_memWrite s .vram i d

/-- A request whose stores have a frame has it: a fault changes no byte. -/
theorem frame_of_stores {i : Instr} {s t : State} {sp : Space} {Reached : Nat → Prop} (hown : ownerOnly i = true)
    (hst : ∀ u ev, Stores s i u ev → FrameOf s u sp Reached) (h : exec i s = .next t) :
    sameControl s t ∧ logFollowsReply s t ∧ (∀ i, Reached i → onlyByte s t sp i) ∧
      ((∀ i, ¬Reached i) → noByte s t) := by
  have hlog := exec_logFollowsReply h
  obtain ⟨-, u, ev, hu, rfl⟩ | ⟨f, rfl⟩ := exec_stores hown h
  · obtain ⟨hcontrol, hreached, hnone⟩ := hst u ev hu
    refine ⟨sameControl_respondWith hcontrol _ _, hlog, fun i hi sp' b hb => ?_, fun hno sp' b => ?_⟩
    · exact (respondWith_memRead ..).trans (hreached i hi sp' b hb)
    · exact (respondWith_memRead ..).trans (hnone hno sp' b)
  · exact ⟨sameControl_raise s f, hlog, fun _ _ sp b _ => raise_memRead s f sp b, fun _ => raise_memRead s f⟩

/-- An I/O write stores its byte; besides, P1 with an engine present replaces the SGB record and the draw count. -/
theorem ioWrite_frame (s : State) (x d : Byte) : ∃ g n, (s.ioWrite x d).1 = (s.memWrite .io x.toNat d).withSgb g n ∧
    (x.toNat ≠ 0 ∨ s.sgbPresent = false → g = s.sgb ∧ n = s.draws) := by
  unfold State.ioWrite
  split
  · rename_i hx
    obtain ⟨g, n, hw, habsent⟩ := p1Write_frame (s.memWrite .io x.toNat d) d
    exact ⟨g, n, hw, fun h => by simpa using habsent (by simpa using h.resolve_left (absurd hx))⟩
  · exact ⟨s.sgb, s.draws, by rw [State.withSgb, ← memWrite_sgb s .io x.toNat d, ← memWrite_draws s .io x.toNat d],
      fun _ => ⟨rfl, rfl⟩⟩

theorem ioWrite_onlyByte (s : State) (x d : Byte) : onlyByte s (s.ioWrite x d).1 .io x.toNat := by
  obtain ⟨g, n, hw, -⟩ := ioWrite_frame s x d
  intro sp b h
  rw [hw, withSgb_memRead, onlyByte_memWrite s .io x.toNat d sp b h]

theorem ioWrite_sgbPresent (s : State) (x d : Byte) : (s.ioWrite x d).1.sgbPresent = s.sgbPresent := by
  obtain ⟨g, n, hw, -⟩ := ioWrite_frame s x d
  rw [hw, withSgb_sgbPresent, memWrite_sgbPresent]

/-- Away from P1, or with no engine, an I/O write is a plain store. -/
theorem ioWrite_sameControl {s : State} {x : Byte} (h : x.toNat ≠ 0 ∨ s.sgbPresent = false) (d : Byte) :
    sameControl s (s.ioWrite x d).1 := by
  obtain ⟨g, n, hw, hkeep⟩ := ioWrite_frame s x d
  obtain ⟨rfl, rfl⟩ := hkeep h
  rw [hw]
  constructor <;> simp

/-! ## Events -/

/-- One line value completes one command at most. -/
theorem engineWrite_events (c : Config) (sel : U2) (r : SgbRun) :
    (engineWrite c sel r).events = r.events ∨ ∃ e, (engineWrite c sel r).events = r.events ++ [e] := by
  have hline : (engineWrite c sel r).events = (lineEvent c sel r).events := rfl
  rw [hline]
  obtain ⟨-, e⟩ | ⟨-, -, e⟩ | ⟨-, -, e⟩ := lineEvent_cases c sel r <;> rw [e]
  · exact .inl rfl
  · exact .inl rfl
  · obtain ⟨-, e⟩ | ⟨-, -, e⟩ | ⟨-, -, e⟩ :=
      finishPacket_cases c { r with sgb := finishByte (shiftBit (sel == 0b01) r.sgb) } <;> rw [e]
    · exact .inl rfl
    · exact .inr ⟨_, rfl⟩
    · exact .inl rfl

/-- A store emits an event only at P1 with an engine present. -/
theorem Stores.events {s u : State} {i : Instr} {ev : List SgbCommand} (h : Stores s i u ev) (hev : ev ≠ []) :
    (∃ d, i = .ioWr 0 d) ∧ s.sgbPresent = true ∧ ev.length = 1 := by
  cases h
  case ioWr x d =>
    have hx : x = 0 := by
      by_contra hne
      have hne : ¬x.toNat = ioP1 := fun h => hne (BitVec.eq_of_toNat_eq h)
      simp [State.ioWrite, hne] at hev
    subst hx
    rw [ioWrite_p1] at hev ⊢
    cases hp : s.sgbPresent with
    | false => simp [p1Write_absent (s := s.memWrite .io 0 d) (by simpa using hp)] at hev
    | true =>
      refine ⟨⟨d, rfl⟩, rfl, ?_⟩
      rw [p1Write_present (by simpa using hp)] at hev ⊢
      obtain h | ⟨e, h⟩ := engineWrite_events (s.memWrite .io 0 d).cfg (lineValue d)
        ⟨(s.memWrite .io 0 d).sgb, (s.memWrite .io 0 d).draws, []⟩
      · exact absurd h hev
      · rw [h]
        rfl
  all_goals exact absurd rfl hev

/-! ## The obligations -/

/-- Settles O6: `step` takes the request from the queue and performs what its word decodes to. -/
theorem stepPerformsTheDecodedRequest : Obligations.StepPerformsTheDecodedRequest := by
  unfold Obligations.StepPerformsTheDecodedRequest
  refine ⟨fun s r rest i hp hi => ?_, fun s hp => step_nil hp⟩
  rw [step_cons hp, perform, hi]

/-- Settles O7: no arm of `exec` stops, and taking the request is all that moves the queue and the index. -/
theorem everyRequestTakesOneStep : Obligations.EveryRequestTakesOneStep := by
  unfold Obligations.EveryRequestTakesOneStep
  intro s r rest hp
  rw [step_cons hp]
  obtain ⟨t, ht⟩ := perform_total r { s with pending := rest, port := r, index := s.index + 1 }
  exact ⟨t, ht, perform_queue ht⟩

/-- Settles O15: an Observer's request reads or raises a fault, whatever its word. -/
theorem observersChangeNothing : Obligations.ObserversChangeNothing := by
  unfold Obligations.ObserversChangeNothing
  intro s t r rest hp ha h
  rw [step_cons hp] at h
  have hfetched := sameHardware_fetched s r rest
  obtain ⟨i, -, h⟩ | ⟨e, -, rfl⟩ := perform_cases h
  · exact (exec_effect h).sameHardware hfetched (.inr ha)
  · exact hfetched.raise _

/-- Settles O17: such a request leaves the hardware, so asking again computes the same response. -/
theorem readsHaveNoSideEffect : Obligations.ReadsHaveNoSideEffect := by
  unfold Obligations.ReadsHaveNoSideEffect
  intro i s t hi h
  have hhw : sameHardware s t := (exec_effect h).sameHardware (.refl s) (.inl hi)
  exact ⟨hhw.sameControl (exec_queue h), hhw.bytes, exec_logFollowsReply h, exec_reply_of_sameHardware hi hhw h⟩

/-- Settles O18: the byte stored is the one the mux names, and an absent bank or a fault stores none. -/
theorem bankedStoresChangeOneByte : Obligations.BankedStoresChangeOneByte := by
  unfold Obligations.BankedStoresChangeOneByte
  refine ⟨fun b a d s t h => frame_of_stores rfl (fun u ev hst => ?vram) h,
    fun b a d s t h => frame_of_stores rfl (fun u ev hst => ?eram) h,
    fun a d s t h => frame_of_stores rfl (fun u ev hst => ?eramf) h⟩
  case vram =>
    cases hst with
    | vramWr hp => exact frameOf_vramPut s d hp
  case eram =>
    cases hst with
    | eramWr hi => exact frameOf_memWrite s .eram d hi
  case eramf =>
    cases hst with
    | eramfWr hi => exact frameOf_memWrite s .eram d hi

/-- Settles O19: OAM and palette writes store the byte at the checked index; an I/O write stores its byte, and the
engine it may drive is no byte. -/
theorem indexedStoresChangeOneByte : Obligations.IndexedStoresChangeOneByte := by
  unfold Obligations.IndexedStoresChangeOneByte
  refine ⟨fun x d s t h => frame_of_stores rfl (fun u ev hst => ?oam) h,
    fun p x d s t h => frame_of_stores rfl (fun u ev hst => ?pal) h, fun x d s t h => ?io⟩
  case oam =>
    cases hst with
    | oamWr hi => exact frameOf_memWrite s .oam d hi
  case pal =>
    cases hst with
    | palWr hi => exact frameOf_memWrite s (palSpace p) d hi
  case io =>
    have hlog := exec_logFollowsReply h
    obtain ⟨-, u, ev, hu, rfl⟩ | ⟨f, rfl⟩ := exec_stores rfl h
    · cases hu
      have hbook := ioWrite_sameBookkeeping s x d
      have hcontrol (hx : x.toNat ≠ 0 ∨ s.sgbPresent = false) :=
        sameControl_respondWith (ioWrite_sameControl hx d) .none (s.ioWrite x d).2
      exact ⟨fun sp b hb => (respondWith_memRead ..).trans (ioWrite_onlyByte s x d sp b hb), hlog,
        fun hx => hcontrol (.inl hx), hbook.cfg, ioWrite_sgbPresent s x d, hbook.index, hbook.pending, hbook.port,
        fun hx => hcontrol (.inr hx)⟩
    · exact ⟨fun sp b _ => raise_memRead s f sp b, hlog, fun _ => sameControl_raise s f, rfl, rfl, rfl, rfl, rfl,
        fun _ => sameControl_raise s f⟩

/-- Settles O56: of the stores only a P1 write that drives the engine emits an event; a response to a read and a fault
carry none. -/
theorem onlyP1WritesEmitEvents : Obligations.OnlyP1WritesEmitEvents := by
  unfold Obligations.OnlyP1WritesEmitEvents
  intro i s t h hev
  obtain ⟨-, v, rfl⟩ | ⟨ha, u, ev, hst, rfl⟩ | ⟨f, rfl⟩ := exec_effect h
  · exact absurd rfl hev
  · obtain ⟨hi, hp, hlen⟩ := hst.events hev
    exact ⟨hi, ha, hp, hlen⟩
  · exact absurd rfl hev

end Sys2Proof.Machine
end

section
/-! PROOFS. The invariant of an instance (10_state.md R55, 20_memory.md R80, 70_reset_and_hazards.md R430): construction
meets it and every step keeps it; and which spaces a request writes. -/

namespace Sys2Proof.Machine

/-! ## Construction -/

/-- Construction of a well-formed configuration with contents that fit it meets the invariant. -/
theorem construct_inv {c : Config} {init : InitContents} (hc : c.wf = true) (hinit : init.fits c) :
    (State.construct c init).Inv where
  config := hc
  arrays := hinit
  engine h := by cases h
  log := Nat.le_refl 0

theorem emptyContents_fits (c : Config) : (⟨[], [], [], [], [], []⟩ : InitContents).fits c := by
  intro sp
  cases sp <;> exact ⟨rfl, rfl⟩

/-! ## The operations keep the invariant -/

/-- A cursor at 0 everywhere and joypad 0: the record SGB_INIT leaves (44_sgb_packet_engine.md R311). -/
theorem sgbAfterInit_inv : sgbAfterInit.Inv where
  bit := by decide
  byte := by decide
  packet := by decide
  count := by decide
  idle _ := ⟨rfl, rfl, rfl⟩
  between h := by cases h
  receiving h := by cases h
  joypad := by decide

section
variable {s : State}

theorem State.Inv.respondWith (h : s.Inv) (r : Response) (ev : List SgbCommand) : (s.respondWith r ev).Inv where
  config := h.config
  arrays sp := by simpa using h.arrays sp
  engine := h.engine
  log := h.log

/-- A fault is logged against the request already counted. -/
theorem State.Inv.raise (h : s.Inv) (hlog : s.faultLog.length < s.index) (f : SpecFault) : (s.raise f).Inv where
  config := h.config
  arrays sp := by simpa using h.arrays sp
  engine := h.engine
  log := by simpa using hlog

theorem State.Inv.memWrite (h : s.Inv) {sp : Space} {i : Nat} (hi : i < spaceBytes s.cfg sp) (v : Byte) :
    (s.memWrite sp i v).Inv where
  config := by simpa using h.config
  arrays sp' := by
    by_cases hsp : sp' = sp
    · subst hsp
      simpa using memPut_arrayOk _ i v _ (h.arrays sp') hi
    · simpa [memWrite_space_other _ _ _ _ _ hsp] using h.arrays sp'
  engine := by simpa using h.engine
  log := by simpa using h.log

theorem State.Inv.withSgb (h : s.Inv) {g : SgbState} (hg : s.sgbPresent = true → g.Inv) (n : Nat) :
    (s.withSgb g n).Inv where
  config := h.config
  arrays sp := by simpa using h.arrays sp
  engine := hg
  log := h.log

theorem State.Inv.withPresence (h : s.Inv) {present : Bool} {g : SgbState} (hg : present = true → g.Inv) :
    State.Inv { s with sgbPresent := present, sgb := g } where
  config := h.config
  arrays sp := by
    have harray := h.arrays sp
    cases sp <;> exact harray
  engine := hg
  log := h.log

theorem State.Inv.p1Write (h : s.Inv) (v : Byte) : (s.p1Write v).1.Inv := by
  cases hp : s.sgbPresent with
  | false => rwa [p1Write_absent hp]
  | true =>
    rw [p1Write_present hp]
    exact h.withSgb (fun _ => engineWrite_inv h.config _ (h.engine hp)) _

theorem State.Inv.ioWrite (h : s.Inv) (x d : Byte) : (s.ioWrite x d).1.Inv := by
  have hw : (s.memWrite .io x.toNat d).Inv := h.memWrite x.isLt d
  unfold State.ioWrite
  split
  · exact hw.p1Write d
  · exact hw

/-- Every store writes within its space, and a present engine keeps its cursor invariants. -/
theorem Stores.inv {u : State} {i : Instr} {ev : List SgbCommand} (hst : Stores s i u ev) (h : s.Inv) : u.Inv := by
  cases hst
  case vramWr b a d p hp =>
    cases p with
    | absent => exact h
    | byteAt i => exact h.memWrite (vramIndex_inRange hp) d
  case oamWr hi => exact h.memWrite (oamByteIndex_inRange hi) _
  case eramWr hi => exact h.memWrite (eramIndex_inRange hi) _
  case eramfWr hi => exact h.memWrite (eramIndex_inRange hi) _
  case ioWr x d => exact h.ioWrite x d
  case palWr p x d i hi =>
    have hlt := palByteIndex_inRange hi
    cases p <;> exact h.memWrite hlt d
  case sgbInit => exact h.withPresence fun _ => sgbAfterInit_inv
  case sgbEnd => exact h.withPresence fun hp => by cases hp

theorem exec_inv {t : State} {i : Instr} (h : s.Inv) (hlog : s.faultLog.length < s.index) (hexec : exec i s = .next t) :
    t.Inv := by
  obtain ⟨-, v, rfl⟩ | ⟨-, u, ev, hst, rfl⟩ | ⟨f, rfl⟩ := exec_effect hexec
  · exact h.respondWith v []
  · exact (hst.inv h).respondWith .none ev
  · exact h.raise hlog f

/-- Taking a request counts it before anything is logged. -/
theorem State.Inv.fetched (h : s.Inv) (r : Request) (rest : List Request) :
    State.Inv { s with pending := rest, port := r, index := s.index + 1 } where
  config := h.config
  arrays sp := by
    have harray := h.arrays sp
    cases sp <;> exact harray
  engine := h.engine
  log := Nat.le_succ_of_le h.log

theorem step_inv {t : State} (h : s.Inv) (hstep : step s = .next t) : t.Inv := by
  cases hp : s.pending with
  | nil =>
    rw [step_nil hp] at hstep
    cases hstep
    exact h
  | cons r rest =>
    rw [step_cons hp] at hstep
    have hfetched := h.fetched r rest
    have hlog : s.faultLog.length < s.index + 1 := Nat.lt_succ_of_le h.log
    obtain ⟨i, -, hexec⟩ | ⟨e, -, rfl⟩ := perform_cases hstep
    · exact exec_inv hfetched hlog hexec
    · exact hfetched.raise hlog _

end

/-! ## Which space a request writes -/

/-- The write requests of each space (20_memory.md R80). -/
def WritesSpace (i : Instr) : Space → Prop
  | .vram => ∃ b a d, i = .vramWr b a d
  | .oam => ∃ x d, i = .oamWr x d
  | .eram => (∃ b a d, i = .eramWr b a d) ∨ ∃ a d, i = .eramfWr a d
  | .io => ∃ x d, i = .ioWr x d
  | .bgPal => ∃ x d, i = .palWr .bg x d
  | .objPal => ∃ x d, i = .palWr .obj x d

section
variable {s u : State} {i : Instr} {ev : List SgbCommand} {sp : Space}

theorem eq_of_memWrite_space_ne {sp' : Space} {k : Nat} {v : Byte}
    (h : (s.memWrite sp' k v).space sp ≠ s.space sp) : sp = sp' :=
  by_contra fun hne => h (memWrite_space_other _ _ _ _ _ hne)

theorem ioWrite_space (s : State) (x d : Byte) (sp : Space) :
    (s.ioWrite x d).1.space sp = (s.memWrite .io x.toNat d).space sp := by
  obtain ⟨g, n, hw, -⟩ := ioWrite_frame s x d
  rw [hw, withSgb_space]

theorem Stores.writesSpace (h : Stores s i u ev) (hne : u.space sp ≠ s.space sp) : WritesSpace i sp := by
  cases h
  case vramWr b a d p hp =>
    cases p with
    | absent => exact absurd rfl hne
    | byteAt k =>
      obtain rfl := eq_of_memWrite_space_ne hne
      exact ⟨b, a, d, rfl⟩
  case oamWr x d k hk =>
    obtain rfl := eq_of_memWrite_space_ne hne
    exact ⟨x, d, rfl⟩
  case eramWr b a d k hk =>
    obtain rfl := eq_of_memWrite_space_ne hne
    exact .inl ⟨b, a, d, rfl⟩
  case eramfWr a d k hk =>
    obtain rfl := eq_of_memWrite_space_ne hne
    exact .inr ⟨a, d, rfl⟩
  case ioWr x d =>
    rw [ioWrite_space] at hne
    obtain rfl := eq_of_memWrite_space_ne hne
    exact ⟨x, d, rfl⟩
  case palWr p x d k hk =>
    obtain rfl := eq_of_memWrite_space_ne hne
    cases p <;> exact ⟨x, d, rfl⟩
  case sgbInit | sgbEnd => exact absurd (by cases sp <;> rfl) hne

theorem Stores.sgbPresent_ne (h : Stores s i u ev) (hne : u.sgbPresent ≠ s.sgbPresent) :
    i = .sgbInit ∨ i = .sgbEnd := by
  cases h
  case sgbInit => exact .inl rfl
  case sgbEnd => exact .inr rfl
  case ioWr x d => exact absurd (ioWrite_sgbPresent s x d) hne
  case vramWr p hp => exact absurd ((frameOf_vramPut s _ hp).control.present) hne
  case oamWr | eramWr | eramfWr | palWr => exact absurd (memWrite_sgbPresent ..) hne

theorem Stores.sgb_ne (h : Stores s i u ev) (hne : u.sgb ≠ s.sgb) : i = .sgbInit ∨ ∃ d, i = .ioWr 0 d := by
  cases h
  case sgbInit => exact .inl rfl
  case sgbEnd => exact absurd rfl hne
  case ioWr x d =>
    by_cases hx : x.toNat = 0
    · obtain rfl : x = 0 := BitVec.eq_of_toNat_eq hx
      exact .inr ⟨d, rfl⟩
    · exact absurd (ioWrite_sameControl (.inl hx) d).sgb hne
  case vramWr p hp => exact absurd ((frameOf_vramPut s _ hp).control.sgb) hne
  case oamWr | eramWr | eramfWr | palWr => exact absurd (memWrite_sgb ..) hne

/-- A request that reads or faults changes no hardware; one that stores is what it stores. -/
theorem exec_hardware {t : State} (h : exec i s = .next t) :
    sameHardware s t ∨ ∃ u ev, Stores s i u ev ∧ sameHardware u t := by
  obtain ⟨-, v, rfl⟩ | ⟨-, u, ev, hst, rfl⟩ | ⟨f, rfl⟩ := exec_effect h
  · exact .inl ((sameHardware.refl s).respond v)
  · exact .inr ⟨u, ev, hst, rfl, respondWith_memRead u _ _, respondWith_space u _ _, rfl, rfl, rfl⟩
  · exact .inl ((sameHardware.refl s).raise f)

end

/-! ## The obligations -/

/-- Settles O8: each shared operation keeps the invariant, and a store writes within its space. -/
theorem everyStepKeepsTheInvariant : Obligations.EveryStepKeepsTheInvariant := by
  unfold Obligations.EveryStepKeepsTheInvariant
  exact fun s t => step_inv

/-- Settles O9: the reset state is a construction with no byte listed. -/
theorem resetMeetsTheInvariant : Obligations.ResetMeetsTheInvariant := by
  unfold Obligations.ResetMeetsTheInvariant
  exact construct_inv (by decide) (emptyContents_fits _)

/-- Settles O10: each array of the constructed state is the one given. -/
theorem constructionGivesTheParameters : Obligations.ConstructionGivesTheParameters := by
  unfold Obligations.ConstructionGivesTheParameters
  intro c init hc hinit
  exact ⟨construct_inv hc hinit, rfl, rfl, rfl, fun a => ⟨rfl, rfl, rfl, rfl, rfl, rfl⟩⟩

/-- Settles O20: a part of the hardware that changed was changed by a store, and each store changes its own part. -/
theorem eachSpaceHasItsOwnWriters : Obligations.EachSpaceHasItsOwnWriters := by
  unfold Obligations.EachSpaceHasItsOwnWriters
  intro i s t h
  obtain hsame | ⟨u, ev, hst, hsame⟩ := exec_hardware h
  · exact ⟨absurd (hsame.arrays .vram), absurd (hsame.arrays .oam), absurd (hsame.arrays .eram),
      absurd (hsame.arrays .io), absurd (hsame.arrays .bgPal), absurd (hsame.arrays .objPal), absurd hsame.present,
      absurd hsame.sgb⟩
  · have hsp {sp : Space} (hne : t.space sp ≠ s.space sp) : WritesSpace i sp :=
      hst.writesSpace (hsame.arrays sp ▸ hne)
    exact ⟨hsp (sp := .vram), hsp (sp := .oam), hsp (sp := .eram), hsp (sp := .io), hsp (sp := .bgPal),
      hsp (sp := .objPal), fun hne => hst.sgbPresent_ne (hsame.present ▸ hne), fun hne => hst.sgb_ne (hsame.sgb ▸ hne)⟩

end Sys2Proof.Machine
end

section
/-! PROOFS. The indexed ports and the read after a write (40_vram_bank_mux.md, 20_memory.md R91): a port reaches its
byte or raises its fault, and the next read, by either name of the byte, answers what the write stored. -/

namespace Sys2Proof.Machine

/-! ## The indexed ports -/

theorem oam_memoryPort (x d : Byte) :
    MemoryPort 0x04 (exec (.oamRd x)) (exec (.oamWr x d)) (fun _ => oamByteIndex x) (fun s i => s.memRead .oam i)
      (fun i s => s.memWrite .oam i d) := ⟨fun _ => rfl, oamWr_storesForOwner x d⟩

theorem pal_memoryPort (p : PalTable) (x d : Byte) :
    MemoryPort 0x0C (exec (.palRd p x)) (exec (.palWr p x d)) (fun _ => palByteIndex x)
      (fun s i => s.memRead (palSpace p) i) (fun i s => s.memWrite (palSpace p) i d) :=
  ⟨fun _ => rfl, palWr_storesForOwner p x d⟩

theorem oamByteIndex_outOfRange {x : Byte} (h : 160 ≤ x.toNat) :
    oamByteIndex x = .error ⟨.addrOutOfRange, .num x.toNat⟩ := if_pos h

theorem palByteIndex_outOfRange {x : Byte} (h : 64 ≤ x.toNat) :
    palByteIndex x = .error ⟨.addrOutOfRange, .num x.toNat⟩ := if_pos h

theorem exec_ioRd_stored {x : Byte} (h : x.toNat ≠ 0) (s : State) :
    exec (.ioRd x) s = .next (s.respond (.byte (s.memRead .io x.toNat))) := by
  have hread : s.ioRead x = s.memRead .io x.toNat := if_neg h
  rw [← hread]
  rfl

theorem exec_ioWr_stored {x : Byte} (h : x.toNat ≠ 0) {s : State} (ha : s.port.agent = .owner) (d : Byte) :
    exec (.ioWr x d) s = .next ((s.memWrite .io x.toNat d).respond .none) := by
  have hwrite : s.ioWrite x d = (s.memWrite .io x.toNat d, []) := if_neg h
  rw [exec_ioWr_owner ha, hwrite]
  rfl

/-! ## A read after a write -/

section
variable {α : Type} {op : BitVec 6} {rd wr : State → Result} {place : Config → Except SpecFault α}
  {get : State → α → Byte} {put : α → State → State} {s t : State}

/-- An Owner-only request that answers None has stored. -/
theorem StoresForOwner.completed {put : α → State → State × List SgbCommand} (h : StoresForOwner op wr place put)
    (hw : wr s = .next t) (hr : t.reply.resp = .none) :
    s.port.agent = .owner ∧ ∃ a, place s.cfg = .ok a ∧ t = (put a s).1.respondWith .none (put a s).2 := by
  obtain hstored | ⟨-, f, -, rfl⟩ | ⟨-, rfl⟩ := h.cases hw
  · exact hstored
  · cases hr
  · cases hr

/-- A port that reads back what it puts answers it to the next read. -/
theorem MemoryPort.read_after_write (h : MemoryPort op rd wr place get put) {d : Byte}
    (hget : ∀ a, place s.cfg = .ok a → get ((put a s).respond .none) a = d) (hw : wr s = .next t)
    (hr : t.reply.resp = .none) : rd t = .next (t.respond (.byte d)) := by
  obtain ⟨-, a, hp, rfl⟩ := h.write.completed hw hr
  have hcfg : place ((put a s).respond .none).cfg = .ok a := by
    rw [respond_cfg, ((h.write.leaves a).keeps s).cfg, hp]
  obtain ⟨hread, -⟩ := h.run_ok hcfg
  rw [hget a hp] at hread
  exact hread

end

theorem respond_memWrite_memRead (s : State) (sp : Space) (i : Nat) (d : Byte) (r : Response) :
    ((s.memWrite sp i d).respond r).memRead sp i = d := by rw [respond_memRead, memRead_memWrite_same]

/-- The two names of an ERAM byte (40_vram_bank_mux.md R166). -/
theorem flatIndex_eq_eramIndex (c : Config) {b : BitVec 4} {a : BitVec 14} {f : BitVec 17}
    (hf : f.toNat = b.toNat * 0x2000 + a.toNat) (ha : a.toNat ≤ 0x1FFF) :
    flatIndex c f = eramIndex c b.toNat a.toNat := by
  have hbank : flatBank f = b.toNat := by
    rw [flatBank_eq_div]
    omega
  have hoffset : flatOffset f = a.toNat := by
    rw [flatOffset_eq_mod]
    omega
  rw [flatIndex, hbank, hoffset]

theorem eramIndex_addr_le {c : Config} {bank addr i : Nat} (h : eramIndex c bank addr = .ok i) : addr ≤ 0x1FFF := by
  by_contra ha
  unfold eramIndex at h
  split_ifs at h
  · omega

/-- An ERAM byte written by bank and offset, read by its flat address. -/
theorem eramWr_eramfRd_memoryPort {b : BitVec 4} {a : BitVec 14} {f : BitVec 17}
    (hf : f.toNat = b.toNat * 0x2000 + a.toNat) (ha : a.toNat ≤ 0x1FFF) (d : Byte) :
    MemoryPort 0x06 (exec (.eramfRd f)) (exec (.eramWr b a d)) (fun c => eramIndex c b.toNat a.toNat)
      (fun s i => s.memRead .eram i) (fun i s => s.memWrite .eram i d) where
  read s := by
    rw [← flatIndex_eq_eramIndex s.cfg hf ha]
    rfl
  write := (eram_memoryPort b a d).write

/-- An ERAM byte written by its flat address, read by bank and offset. -/
theorem eramfWr_eramRd_memoryPort {b : BitVec 4} {a : BitVec 14} {f : BitVec 17}
    (hf : f.toNat = b.toNat * 0x2000 + a.toNat) (ha : a.toNat ≤ 0x1FFF) (d : Byte) :
    MemoryPort 0x08 (exec (.eramRd b a)) (exec (.eramfWr f d)) (fun c => flatIndex c f)
      (fun s i => s.memRead .eram i) (fun i s => s.memWrite .eram i d) where
  read s := by
    rw [flatIndex_eq_eramIndex s.cfg hf ha]
    rfl
  write := (eramf_memoryPort f d).write

/-! ## The obligations -/

/-- Settles O22: OAM and the palette RAMs are ports with one bound each, and an I/O register other than P1 is stored. -/
theorem indexedPortsReachEveryByte : Obligations.IndexedPortsReachEveryByte := by
  unfold Obligations.IndexedPortsReachEveryByte
  intro s x d
  have pal (p : PalTable) := pal_memoryPort p x d
  refine ⟨fun h => (oam_memoryPort x d).run_ok (oamByteIndex_ok h),
    fun h => (oam_memoryPort x d).run_error (oamByteIndex_outOfRange h),
    fun h => ⟨exec_ioRd_stored h s, fun ha => exec_ioWr_stored h ha d⟩, fun h => ?palByte,
    fun h p => (pal p).run_error (palByteIndex_outOfRange h)⟩
  case palByte =>
    obtain ⟨hbgRead, hbgWrite⟩ := (pal .bg).run_ok (s := s) (palByteIndex_ok h)
    obtain ⟨hobjRead, hobjWrite⟩ := (pal .obj).run_ok (s := s) (palByteIndex_ok h)
    exact ⟨hbgRead, hobjRead, fun ha => ⟨hbgWrite ha, hobjWrite ha⟩⟩

/-- Settles O25: a completed write put its byte at the place the read finds by the same check, or by the other name of
the byte. -/
theorem nextReadSeesTheWrite : Obligations.NextReadSeesTheWrite := by
  unfold Obligations.NextReadSeesTheWrite
  intro s t d
  refine ⟨fun b a i hi hw hr => ?vram, fun x hw hr => ?oam, fun b a f hf hw hr => ?eram,
    fun b a f hf ha hw hr => ?eramf, fun x hx hw hr => ?io, fun p x hw hr => ?pal⟩
  case vram =>
    refine (vram_memoryPort b a d).read_after_write (fun p hp => ?_) hw hr
    obtain rfl : p = .byteAt i := Except.ok.inj (hp.symm.trans hi)
    exact respond_memWrite_memRead s .vram i d .none
  case oam => exact (oam_memoryPort x d).read_after_write (fun i _ => respond_memWrite_memRead s .oam i d .none) hw hr
  case eram =>
    have port := eram_memoryPort b a d
    obtain ⟨-, i, hi, -⟩ := port.write.completed hw hr
    have hget (i : Nat) (_ : eramIndex s.cfg b.toNat a.toNat = .ok i) := respond_memWrite_memRead s .eram i d .none
    exact ⟨port.read_after_write hget hw hr,
      (eramWr_eramfRd_memoryPort hf (eramIndex_addr_le hi) d).read_after_write hget hw hr⟩
  case eramf =>
    have hget (i : Nat) (_ : flatIndex s.cfg f = .ok i) := respond_memWrite_memRead s .eram i d .none
    exact ⟨(eramf_memoryPort f d).read_after_write hget hw hr,
      (eramfWr_eramRd_memoryPort hf ha d).read_after_write hget hw hr⟩
  case io =>
    obtain ⟨ha, -⟩ := (ioWr_storesForOwner x d).completed hw hr
    rw [exec_ioWr_stored hx ha] at hw
    cases hw
    rw [exec_ioRd_stored hx, respond_memWrite_memRead]
  case pal =>
    exact (pal_memoryPort p x d).read_after_write (fun i _ => respond_memWrite_memRead s (palSpace p) i d .none) hw hr

end Sys2Proof.Machine
end

section
/-! PROOFS. Sprites on the screen (43_sprite_rasterizer.md, 41_palette_lut.md): when an entry is visible, which layer
wins a pixel, and the list of pixels RASTER_SPRITE answers with their colours. -/

namespace Sys2Proof.Machine

/-! ## Colours that always resolve -/

section
variable (s : State) {pal : Nat} (ci : U2)

theorem resolve_background_ok (pal : Nat) : ∃ c, s.resolve false pal ci = .ok c := by
  cases hm : s.cfg.mode with
  | dmg => exact ⟨_, (resolve_dmg hm).trans dmgColor_background⟩
  | gbcCompat => exact ⟨_, resolve_gbcCompat hm⟩
  | cgbEnabled => exact ⟨_, resolve_cgbEnabled hm⟩

/-- A sprite palette faults only in DMG mode, from 2 on (41_palette_lut.md R205). -/
theorem resolve_sprite_ok (hp : s.cfg.mode = .dmg → pal ≤ 1) : ∃ c, s.resolve true pal ci = .ok c := by
  cases hm : s.cfg.mode with
  | dmg => exact ⟨_, (resolve_dmg hm).trans (dmgColor_sprite (hp hm))⟩
  | gbcCompat => exact ⟨_, resolve_gbcCompat hm⟩
  | cgbEnabled => exact ⟨_, resolve_cgbEnabled hm⟩

end

theorem attrPal_eq_mod (attr : Byte) : attrPal attr = attr.toNat % 8 := by simp [attrPal]

theorem exec_resolveBgColor_ok {s : State} {attr : Byte} {ci : U2} {c : Rgb8}
    (h : s.resolve false (attrPal attr) ci = .ok c) :
    exec (.resolveBgColor attr ci) s = .next (s.respond (.rgb c)) := by
  have hexec : exec (.resolveBgColor attr ci) s = answer s ((s.resolve false (attrPal attr) ci).map .rgb) := rfl
  rw [hexec, h]
  rfl

/-! ## The palette of an entry -/

theorem infoDmgPal_eq (info : Byte) : infoDmgPal info = info.toNat / 16 % 2 := by
  simp [infoDmgPal, Nat.shiftRight_eq_div_pow]

theorem infoCgbPal_eq (info : Byte) : infoCgbPal info = info.toNat % 8 := by simp [infoCgbPal]

/-- Only CGBEnabled mode takes three palette bits from the entry (43_sprite_rasterizer.md R272). -/
theorem spritePal_eq (m : Mode) (info : Byte) :
    spritePal m info = if m = .cgbEnabled then info.toNat % 8 else info.toNat / 16 % 2 := by
  cases m with
  | cgbEnabled => exact infoCgbPal_eq info
  | gbcCompat => exact infoDmgPal_eq info
  | dmg => exact infoDmgPal_eq info

theorem spritePal_lt (m : Mode) (info : Byte) : spritePal m info < 8 := by
  rw [spritePal_eq]
  split <;> omega

/-- The palette of an entry fits the operand of RESOLVE_COLOR. -/
theorem spritePal_toNat (m : Mode) (info : Byte) : (BitVec.ofNat 3 (spritePal m info)).toNat = spritePal m info :=
  Nat.mod_eq_of_lt (spritePal_lt m info)

/-- No entry names a palette its mode does not have. -/
theorem spritePal_ok (s : State) (info : Byte) (ci : U2) :
    ∃ c, s.resolve true (spritePal s.cfg.mode info) ci = .ok c := by
  refine resolve_sprite_ok s ci fun hm => ?_
  rw [hm, spritePal_eq, if_neg (by decide)]
  omega

/-! ## The list of RASTER_SPRITE -/

/-- Entry `k` of the row-major order is column `k % 8` of row `k / 8`. -/
theorem rasterOrder_eq (height : Nat) :
    rasterOrder height = (List.range (8 * height)).map fun k => (k % 8, k / 8) := by
  induction height with
  | zero => rfl
  | succ h ih =>
    have hrow : ((List.range 8).map fun x => (x, h)) =
        (List.range 8).map fun x => ((8 * h + x) % 8, (8 * h + x) / 8) := by
      refine List.map_congr_left fun x hx => ?_
      have hx : x < 8 := List.mem_range.mp hx
      refine Prod.ext ?_ ?_
      · show x = (8 * h + x) % 8
        omega
      · show h = (8 * h + x) / 8
        omega
    unfold rasterOrder at ih ⊢
    rw [List.range_succ (n := h), List.flatMap_append, ih, Nat.mul_succ, List.range_add, List.map_append,
      List.flatMap_singleton, hrow, List.map_map]
    rfl

/-- What RASTER_SPRITE asks of the sink for colour index `ci` (43_sprite_rasterizer.md R285). -/
theorem spriteAction_clear (s : State) (pal : Nat) : s.spriteAction pal 0 = .ok (clearAction s.cfg.sinkFormat) :=
  if_pos rfl

theorem spriteAction_opaque {s : State} {pal : Nat} {ci : U2} {c : Rgb8} (h0 : ci ≠ 0)
    (hc : s.resolve true pal ci = .ok c) : s.spriteAction pal ci = .ok (opaqueAction s.cfg.sinkFormat c) := by
  rw [State.spriteAction, if_neg h0, hc]
  rfl

/-- Every pixel of an entry has its action. -/
theorem spriteAction_ok (s : State) (info : Byte) (ci : U2) :
    ∃ a, s.spriteAction (spritePal s.cfg.mode info) ci = .ok a := by
  by_cases h0 : ci = 0
  · subst h0
    exact ⟨_, spriteAction_clear s _⟩
  · obtain ⟨c, hc⟩ := spritePal_ok s info ci
    exact ⟨_, spriteAction_opaque h0 hc⟩

/-- The list has an entry for each pixel of the grid, row by row, with the action of its colour index. -/
theorem rasterList_ok (s : State) (e : OamEntryView) : ∃ l, s.rasterList e = .ok l ∧ l.length = 8 * s.spriteHeight ∧
    ∀ k, k < 8 * s.spriteHeight → ∃ a, l[k]? = some ⟨k % 8, k / 8, a⟩ ∧
      s.spriteAction (spritePal s.cfg.mode e.info) ((s.spriteRow e (k / 8))[k % 8]?.getD 0) = .ok a := by
  have hpixel (xy : Nat × Nat) : ∃ a, s.rasterPixel e xy = .ok ⟨xy.1, xy.2, a⟩ ∧
      s.spriteAction (spritePal s.cfg.mode e.info) ((s.spriteRow e xy.2)[xy.1]?.getD 0) = .ok a := by
    obtain ⟨a, ha⟩ := spriteAction_ok s e.info ((s.spriteRow e xy.2)[xy.1]?.getD 0)
    refine ⟨a, ?_, ha⟩
    rw [State.rasterPixel, ha]
    rfl
  choose action hok haction using hpixel
  have hl := mapFaults_ok (s.rasterPixel e) (fun xy => PixelWrite.mk xy.1 xy.2 (action xy)) (rasterOrder s.spriteHeight)
    fun xy _ => hok xy
  exact ⟨_, hl, by simp [rasterOrder_eq],
    fun k hk => ⟨action (k % 8, k / 8), by simp [rasterOrder_eq, hk], haction (k % 8, k / 8)⟩⟩

theorem exec_rasterSprite (obj : BitVec 6) (s : State) : exec (.rasterSprite obj) s =
    answer s ((objIndex obj).bind fun i => (s.rasterList (s.oamEntry i)).map .pixels) := rfl

theorem exec_rasterSprite_ok {obj : BitVec 6} (ho : obj.toNat < 40) {s : State} {l : List PixelWrite}
    (hl : s.rasterList (s.oamEntry obj.toNat) = .ok l) :
    exec (.rasterSprite obj) s = .next (s.respond (.pixels l)) := by
  have hbind : ((objIndex obj).bind fun i => (s.rasterList (s.oamEntry i)).map Response.pixels) = .ok (.pixels l) := by
    rw [objIndex_ok ho]
    show (s.rasterList (s.oamEntry obj.toNat)).map Response.pixels = _
    rw [hl]
    rfl
  rw [exec_rasterSprite, hbind, answer_ok]

theorem exec_rasterSprite_outOfRange {obj : BitVec 6} (ho : 40 ≤ obj.toNat) (s : State) :
    exec (.rasterSprite obj) s = .next (s.raise ⟨.oamIndexOutOfRange, .num obj.toNat⟩) := by
  rw [exec_rasterSprite, objIndex_outOfRange ho]
  rfl

/-! ## Visibility and layers -/

theorem exec_spriteVisible (obj : BitVec 6) (s : State) : exec (.spriteVisible obj) s =
    answer s ((objIndex obj).map fun i => .bool (spriteOnScreen s.spriteHeight (s.oamEntry i))) := rfl

theorem exec_spriteVisible_ok {obj : BitVec 6} (ho : obj.toNat < 40) (s : State) : exec (.spriteVisible obj) s =
    .next (s.respond (.bool (spriteOnScreen s.spriteHeight (s.oamEntry obj.toNat)))) := by
  rw [exec_spriteVisible, objIndex_ok ho]
  rfl

theorem exec_spriteVisible_outOfRange {obj : BitVec 6} (ho : 40 ≤ obj.toNat) (s : State) :
    exec (.spriteVisible obj) s = .next (s.raise ⟨.oamIndexOutOfRange, .num obj.toNat⟩) := by
  rw [exec_spriteVisible, objIndex_outOfRange ho]
  rfl

/-- A 16-tall sprite needs a row below the top edge, an 8-tall one eight more (43_sprite_rasterizer.md R283). -/
theorem spriteOnScreen_iff (height : Nat) (e : OamEntryView) : spriteOnScreen height e = true ↔
    0 < e.x.toNat ∧ e.x.toNat < 168 ∧ e.y.toNat < 160 ∧
      (height = 16 → 0 < e.y.toNat) ∧ (height ≠ 16 → 8 < e.y.toNat) := by
  by_cases h : height = 16 <;> simp [spriteOnScreen, h] <;> omega

theorem bgMaster_eq_false_iff (s : State) : s.bgMaster = false ↔ bitOf (s.memRead .io 0x40) 0 = 0 := by
  have hlt : bitOf (s.memRead .io 0x40) 0 < 2 := Nat.mod_lt _ (by decide)
  rw [← Bool.not_eq_true, State.bgMaster, getLsbD_iff_bitOf, ioLcdc]
  omega

theorem selectLayer_eq_obj_iff (s : State) (bgci : U2) (bgpri : Bool) (objci : U2) (objpri : Bool) :
    s.selectLayer bgci bgpri objci objpri = .obj ↔ objci ≠ 0 ∧
      ((s.cfg.mode = .cgbEnabled ∧ s.bgMaster = false) ∨ bgci = 0 ∨
        (¬(s.cfg.mode = .cgbEnabled ∧ bgpri = true) ∧ objpri = false)) := by
  simp only [State.selectLayer, Bool.and_eq_true, Bool.not_eq_true', decide_eq_true_iff]
  by_cases hobj : objci = 0
  · simp only [if_pos hobj, reduceCtorEq, false_iff]
    exact fun ⟨hne, _⟩ => hne hobj
  · rw [if_neg hobj]
    split_ifs with hmaster hpri hown <;> simp only [← Bool.not_eq_true] at * <;> tauto

/-! ## The obligations -/

/-- Settles O29: the background palette is the low three bits of the attribute, and a background colour is found in
every mode. -/
theorem backgroundColorUsesThePaletteBits : Obligations.BackgroundColorUsesThePaletteBits := by
  unfold Obligations.BackgroundColorUsesThePaletteBits
  intro s attr ci
  obtain ⟨c, hc⟩ := resolve_background_ok s ci (attrPal attr)
  have hpal : (BitVec.ofNat 3 (attr.toNat % 8)).toNat = attrPal attr := by rw [attrPal_eq_mod]; simp
  exact ⟨c, exec_resolveBgColor_ok hc, exec_resolveColor_ok (hpal ▸ hc)⟩

/-- Settles O36: the predicate's bound on Y is chosen by the height, which is 16 exactly when LCDC bit 2 is set. -/
theorem spriteVisibilityHasTheSourceBounds : Obligations.SpriteVisibilityHasTheSourceBounds := by
  unfold Obligations.SpriteVisibilityHasTheSourceBounds
  intro s obj
  refine ⟨fun ho => ⟨_, exec_spriteVisible_ok ho s, ?bounds⟩, fun ho => exec_spriteVisible_outOfRange ho s⟩
  case bounds =>
    have hbit : bitOf (s.memRead .io 0x40) 2 < 2 := Nat.mod_lt _ (by decide)
    have htall : s.spriteHeight = 16 ↔ bitOf (s.memRead .io 0x40) 2 = 1 := by
      rw [spriteHeight_eq]
      split_ifs with h <;> simp [h]
    have hshort : s.spriteHeight ≠ 16 ↔ bitOf (s.memRead .io 0x40) 2 = 0 := by
      rw [Ne, htall]
      omega
    rw [spriteOnScreen_iff, htall, hshort]
    rfl

/-- Settles O37: the list follows the grid row by row; a pixel's action is the clear one at index 0 and otherwise that
of the colour the entry's palette resolves to. -/
theorem rasterListsColourTheGrid : Obligations.RasterListsColourTheGrid := by
  unfold Obligations.RasterListsColourTheGrid
  intro s obj
  refine ⟨fun ho => ?list, fun ho => exec_rasterSprite_outOfRange ho s⟩
  case list =>
    obtain ⟨l, hl, hlen, hget⟩ := rasterList_ok s (s.oamEntry obj.toNat)
    refine ⟨s.spriteHeight, _, l, exec_decodeSprite_ok ho s, exec_rasterSprite_ok ho hl, hlen, fun k hk => ?_⟩
    obtain ⟨a, hpx, ha⟩ := hget k hk
    have hx : k % 8 < 8 := Nat.mod_lt k (by decide)
    rw [Vector.getElem?_eq_getElem hx, Option.getD_some] at ha
    refine ⟨_, _, hpx, rfl, rfl, spriteGrid_getElem? s _ (by omega), fun _ => ⟨fun h0 => ?clear, fun h0 => ?drawn⟩⟩
    case clear =>
      rw [h0, spriteAction_clear] at ha
      cases ha
      exact ⟨fun hf => by rw [hf]; rfl, fun hf => by rw [hf]; rfl⟩
    case drawn =>
      obtain ⟨c, hc⟩ := spritePal_ok s (s.oamEntry obj.toNat).info _
      rw [spriteAction_opaque h0 hc] at ha
      cases ha
      refine ⟨c, exec_resolveColor_ok ?_, fun hf => by rw [hf]; rfl, fun hf => by rw [hf]; rfl⟩
      rw [← hc, ← spritePal_toNat, spritePal_eq]
      rfl

/-- Settles O38: the branches of the selection rule, with LCDC bit 0 as a number. -/
theorem composeSelectsTheSpriteExactlyWhen : Obligations.ComposeSelectsTheSpriteExactlyWhen := by
  unfold Obligations.ComposeSelectsTheSpriteExactlyWhen
  intro s bgci bgpri objci objpri
  refine ⟨s.selectLayer bgci bgpri objci objpri, rfl, ?_⟩
  rw [selectLayer_eq_obj_iff, bgMaster_eq_false_iff]

end Sys2Proof.Machine
end

section
/-! PROOFS. The reads of a present SGB engine (41_palette_lut.md R220, 44_sgb_packet_engine.md R380 to R385): each
answers its field or its cell, and off the grid its fault. -/

namespace Sys2Proof.Machine

theorem offTileGrid_iff (tx ty : BitVec 5) : offTileGrid tx ty = true ↔ ¬(tx.toNat < 20 ∧ ty.toNat < 18) := by
  simp only [offTileGrid, Bool.or_eq_true, decide_eq_true_iff]
  omega

/-- A read of a present engine that checks its operands first: its value, or CoordOutOfRange. -/
theorem needSgb_require_bind {s : State} (h : s.sgbPresent = true) {α : Type} (ok : Bool) (f : SpecFault) (v : α) :
    (do needSgb s; require ok f; .ok v) = if ok = true then .ok v else .error f := by
  rw [needSgb_present h]
  cases ok <;> rfl

section
variable {s : State} (h : s.sgbPresent = true)
include h

theorem exec_sgbStatus_present : exec .sgbStatus s = .next (s.respond (.status (statusOf s.sgb))) := by
  have hexec : exec .sgbStatus s = answer s ((needSgb s).map fun _ => .status (statusOf s.sgb)) := rfl
  rw [hexec, needSgb_present h]
  rfl

theorem exec_sgbPalRd_present (p : BitVec 3) (c : BitVec 4) :
    exec (.sgbPalRd p c) s = .next (s.respond (.word (tabGet s.sgb.palette p.toNat c.toNat))) := by
  have hexec : exec (.sgbPalRd p c) s =
      answer s ((needSgb s).map fun _ => .word (tabGet s.sgb.palette p.toNat c.toNat)) := rfl
  rw [hexec, needSgb_present h]
  rfl

theorem exec_sgbSnespalRd_present (n : BitVec 9) (c : U2) :
    exec (.sgbSnespalRd n c) s = .next (s.respond (.word (tabGet s.sgb.snesPalette n.toNat c.toNat))) := by
  have hexec : exec (.sgbSnespalRd n c) s =
      answer s ((needSgb s).map fun _ => .word (tabGet s.sgb.snesPalette n.toNat c.toNat)) := rfl
  rw [hexec, needSgb_present h]
  rfl

theorem exec_sgbAtfRd_present (n : BitVec 6) (tx ty : BitVec 5) : exec (.sgbAtfRd n tx ty) s =
    if n.toNat < 45 ∧ tx.toNat < 20 ∧ ty.toNat < 18 then
      .next (s.respond (.u2 (atfCell s.sgb n.toNat ty.toNat tx.toNat)))
    else .next (s.raise ⟨.coordOutOfRange, .triple n.toNat tx.toNat ty.toNat⟩) := by
  have hrange : (!(decide (45 ≤ n.toNat) || offTileGrid tx ty)) = true ↔
      n.toNat < 45 ∧ tx.toNat < 20 ∧ ty.toNat < 18 := by
    simp only [Bool.not_eq_true', ← Bool.not_eq_true, Bool.or_eq_true, decide_eq_true_iff, offTileGrid_iff]
    omega
  rw [exec, execSgbAtfRd, needSgb_require_bind h]
  simp only [hrange]
  split_ifs <;> rfl

theorem exec_sgbCuratfRd_present (tx ty : BitVec 5) : exec (.sgbCuratfRd tx ty) s =
    if tx.toNat < 20 ∧ ty.toNat < 18 then .next (s.respond (.u2 (tabGet s.sgb.curAtf ty.toNat tx.toNat)))
    else .next (s.raise ⟨.coordOutOfRange, .pair tx.toNat ty.toNat⟩) := by
  rw [exec, execSgbCuratfRd, needSgb_require_bind h]
  simp only [Bool.not_eq_true', ← Bool.not_eq_true, offTileGrid_iff, not_not]
  split_ifs <;> rfl

theorem exec_sgbPktRd_present (p : BitVec 3) (b : BitVec 4) : exec (.sgbPktRd p b) s =
    if p.toNat < 7 then .next (s.respond (.byte (tabGet s.sgb.data p.toNat b.toNat)))
    else .next (s.raise ⟨.coordOutOfRange, .pair p.toNat b.toNat⟩) := by
  rw [exec, execSgbPktRd, needSgb_require_bind h]
  simp only [decide_eq_true_iff]
  split_ifs <;> rfl

theorem exec_resolveSgbColor_present (tx ty : BitVec 5) (shade : U2) : exec (.resolveSgbColor tx ty shade) s =
    if tx.toNat < 20 ∧ ty.toNat < 18 then .next (s.respond (.rgb (expand15
      (tabGet s.sgb.palette (tabGet s.sgb.curAtf ty.toNat tx.toNat).toNat shade.toNat))))
    else .next (s.raise ⟨.coordOutOfRange, .pair tx.toNat ty.toNat⟩) := by
  rw [exec, execResolveSgbColor, State.sgbColor, needSgb_require_bind h]
  simp only [Bool.not_eq_true', ← Bool.not_eq_true, offTileGrid_iff, not_not]
  split_ifs <;> rfl

end

/-! ## The obligations -/

/-- Settles O31: on the grid the request answers an expanded word, off it the fault of its grid check. -/
theorem sgbColorReadsTheAppliedGrid : Obligations.SgbColorReadsTheAppliedGrid := by
  unfold Obligations.SgbColorReadsTheAppliedGrid
  intro s tx ty sh h
  rw [exec_resolveSgbColor_present h]
  exact ⟨fun hx hy => ⟨_, if_pos ⟨hx, hy⟩, expand15_isExpansion _⟩, fun hoff => if_neg (by omega)⟩

/-- Settles O42: with the engine present the three requests answer their field. -/
theorem sgbScalarAndPaletteReads : Obligations.SgbScalarAndPaletteReads := by
  unfold Obligations.SgbScalarAndPaletteReads
  exact fun s h => ⟨exec_sgbStatus_present h, exec_sgbPalRd_present h, exec_sgbSnespalRd_present h⟩

/-- Settles O43: with the engine present only the operand check is left to pass or to fail. -/
theorem sgbGridAndPacketReads : Obligations.SgbGridAndPacketReads := by
  unfold Obligations.SgbGridAndPacketReads
  intro s tx ty h
  simp only [exec_sgbAtfRd_present h, exec_sgbCuratfRd_present h, exec_sgbPktRd_present h]
  exact ⟨fun n => ⟨fun hin => if_pos hin, fun hout => if_neg hout⟩, fun hin => if_pos hin, fun hout => if_neg hout,
    fun p b => ⟨fun hin => if_pos hin, fun hout => if_neg (by omega)⟩⟩

end Sys2Proof.Machine
end

section
/-! PROOFS. The table of faults (60_exceptions.md R402): each check raises only its own codes, and a request raises only
those of its checks, or AccessDenied. -/

namespace Sys2Proof.Machine

/-! ## The fault codes of a check -/

/-- A check raises only the codes listed. -/
structure FaultsIn {α : Type} (codes : List FaultCode) (r : Except SpecFault α) : Prop where
  code_mem : ∀ e, r = .error e → e.code ∈ codes

section
variable {α β : Type} {codes : List FaultCode} {r : Except SpecFault α}

theorem faultsIn_ok (codes : List FaultCode) (a : α) : FaultsIn codes (.ok a) where
  code_mem e h := by cases h

theorem faultsIn_error {code : FaultCode} (info : FaultInfo) (h : code ∈ codes) :
    FaultsIn codes (.error ⟨code, info⟩ : Except SpecFault α) where
  code_mem e he := by
    cases he
    exact h

theorem FaultsIn.ite {p : Prop} [Decidable p] {r' : Except SpecFault α} (h : FaultsIn codes r)
    (h' : FaultsIn codes r') : FaultsIn codes (if p then r else r') := by
  split
  · exact h
  · exact h'

theorem FaultsIn.bind (h : FaultsIn codes r) {k : α → Except SpecFault β} (hk : ∀ a, FaultsIn codes (k a)) :
    FaultsIn codes (r.bind k) := by
  cases r with
  | ok a => exact hk a
  | error f => exact faultsIn_error f.info (h.code_mem f rfl)

theorem FaultsIn.map (h : FaultsIn codes r) (k : α → β) : FaultsIn codes (r.map k) := by
  cases r with
  | ok a => exact faultsIn_ok codes (k a)
  | error f => exact faultsIn_error f.info (h.code_mem f rfl)

end

theorem faultsIn_require {codes : List FaultCode} (ok : Bool) {code : FaultCode} (info : FaultInfo)
    (h : code ∈ codes) : FaultsIn codes (require ok ⟨code, info⟩) := (faultsIn_ok codes ()).ite (faultsIn_error info h)

theorem faultsIn_vramIndex (c : Config) (bank addr : Nat) :
    FaultsIn [.bankOutOfRange, .addrOutOfRange] (vramIndex c bank addr) :=
  .ite (faultsIn_error _ (by decide)) (.ite (faultsIn_error _ (by decide)) (.ite (faultsIn_ok _ _) (faultsIn_ok _ _)))

theorem faultsIn_eramIndex (c : Config) (bank addr : Nat) :
    FaultsIn [.bankOutOfRange, .addrOutOfRange] (eramIndex c bank addr) :=
  .ite (faultsIn_error _ (by decide)) (.ite (faultsIn_error _ (by decide)) (faultsIn_ok _ _))

/-- The offset of a flat address is within its bank. -/
theorem faultsIn_flatIndex (c : Config) (a : BitVec 17) : FaultsIn [.bankOutOfRange] (flatIndex c a) := by
  rcases Nat.lt_or_ge (a.toNat / 0x2000) c.nEramBanks with h | h
  · rw [flatIndex_ok h]
    exact faultsIn_ok _ _
  · rw [flatIndex_bankOutOfRange h]
    exact faultsIn_error _ (by decide)

theorem faultsIn_oamByteIndex (x : Byte) : FaultsIn [.addrOutOfRange] (oamByteIndex x) :=
  .ite (faultsIn_error _ (by decide)) (faultsIn_ok _ _)

theorem faultsIn_palByteIndex (x : Byte) : FaultsIn [.addrOutOfRange] (palByteIndex x) :=
  .ite (faultsIn_error _ (by decide)) (faultsIn_ok _ _)

theorem faultsIn_objIndex (obj : BitVec 6) : FaultsIn [.oamIndexOutOfRange] (objIndex obj) :=
  .ite (faultsIn_error _ (by decide)) (faultsIn_ok _ _)

theorem faultsIn_tileIndex (tile : BitVec 9) : FaultsIn [.tileOutOfRange] (tileIndex tile) :=
  .ite (faultsIn_error _ (by decide)) (faultsIn_ok _ _)

theorem faultsIn_needSgb {codes : List FaultCode} (s : State) (h : .sgbAbsent ∈ codes) :
    FaultsIn codes (needSgb s) := faultsIn_require _ _ h

theorem faultsIn_resolveColor (s : State) (spr : Bool) (pal : BitVec 3) (ci : U2) :
    FaultsIn (faultsOf s.cfg.mode (.resolveColor spr pal ci)) (s.resolve spr pal.toNat ci) := by
  cases hm : s.cfg.mode with
  | dmg =>
    rw [resolve_dmg hm]
    exact .ite (.ite (faultsIn_error _ (List.mem_singleton.mpr rfl)) (faultsIn_ok _ _)) (faultsIn_ok _ _)
  | gbcCompat =>
    rw [resolve_gbcCompat hm]
    exact faultsIn_ok _ _
  | cgbEnabled =>
    rw [resolve_cgbEnabled hm]
    exact faultsIn_ok _ _

/-- A read that checks the engine and its operands. -/
theorem faultsIn_sgbRead (s : State) {α : Type} (ok : Bool) (info : FaultInfo) (v : α) :
    FaultsIn [.sgbAbsent, .coordOutOfRange] (do needSgb s; require ok ⟨.coordOutOfRange, info⟩; .ok v) :=
  (faultsIn_needSgb s (by decide)).bind fun _ => (faultsIn_require ok info (by decide)).bind fun _ => faultsIn_ok _ v

/-! ## The fault a request raised -/

section
variable {s : State} {e f : SpecFault} {codes : List FaultCode}

theorem raise_injective (h : s.raise e = s.raise f) : e = f := by
  have hreply := congrArg State.reply h
  cases e
  cases f
  simpa using hreply

/-- A response changes no log, so a request that reads and raised a fault computed it. -/
theorem FaultsIn.of_answer {r : Except SpecFault Response} (hr : FaultsIn codes r)
    (h : answer s r = .next (s.raise e)) : e.code ∈ codes := by
  obtain ⟨v, -, hv⟩ | ⟨f, hf, hraise⟩ := answer_cases h
  · simpa using congrArg State.faultLog hv
  · rw [raise_injective hraise]
    exact hr.code_mem f hf

/-- A raised fault is one of the request's own, or the denial of an Owner-only request. -/
def OwnFault (i : Instr) (s : State) (e : SpecFault) : Prop :=
  e.code ∈ faultsOf s.cfg.mode i ∨ (e.code = .accessDenied ∧ ownerOnly i = true ∧ s.port.agent = .observer)

/-- An Owner-only request raises a fault of its place check, or denies an Observer. -/
theorem StoresForOwner.ownFault {α : Type} {op : BitVec 6} {i : Instr} {place : Config → Except SpecFault α}
    {put : α → State → State × List SgbCommand} (hk : StoresForOwner op (exec i) place put) (hown : ownerOnly i = true)
    (hplace : FaultsIn (faultsOf s.cfg.mode i) (place s.cfg)) (h : exec i s = .next (s.raise e)) : OwnFault i s e := by
  obtain ⟨-, a, -, hstored⟩ | ⟨-, f, hf, hraise⟩ | ⟨ha, hraise⟩ := hk.cases h
  · simpa using congrArg State.reply hstored
  · rw [raise_injective hraise]
    exact .inl (hplace.code_mem f hf)
  · rw [raise_injective hraise]
    exact .inr ⟨rfl, hown, ha⟩

end

theorem exec_ownFault {i : Instr} {s : State} {e : SpecFault} (h : exec i s = .next (s.raise e)) : OwnFault i s e := by
  cases i
  case vramRd => exact .inl (((faultsIn_vramIndex ..).map _).of_answer h)
  case oamRd x => exact .inl (((faultsIn_oamByteIndex x).map _).of_answer h)
  case eramRd => exact .inl (((faultsIn_eramIndex ..).map _).of_answer h)
  case eramfRd => exact .inl (((faultsIn_flatIndex ..).map _).of_answer h)
  case ioRd => exact .inl ((faultsIn_ok _ _).of_answer h)
  case palRd p x => exact .inl (((faultsIn_palByteIndex x).map _).of_answer h)
  case resolveColor spr pal ci => exact .inl (((faultsIn_resolveColor s spr pal ci).map _).of_answer h)
  case resolveBgColor attr ci =>
    obtain ⟨c, hc⟩ := resolve_background_ok s ci (attrPal attr)
    rw [exec_resolveBgColor_ok hc] at h
    simpa using congrArg State.faultLog (Host.Outcome.next.inj h)
  case resolveSgbColor => exact .inl (((faultsIn_sgbRead ..).map _).of_answer h)
  case decodeTileRow b t r hf vf => exact .inl (((faultsIn_tileIndex t).map _).of_answer h)
  case decodeSprite o => exact .inl (((faultsIn_objIndex o).map _).of_answer h)
  case spriteVisible o => exact .inl (((faultsIn_objIndex o).map _).of_answer h)
  case rasterSprite o =>
    refine .inl (((faultsIn_objIndex o).bind fun k => ?_).of_answer h)
    obtain ⟨l, hl, -⟩ := rasterList_ok s (s.oamEntry k)
    rw [hl]
    exact faultsIn_ok _ _
  case composePixel => exact .inl ((faultsIn_ok _ _).of_answer h)
  case sgbStatus | sgbPalRd | sgbSnespalRd =>
    exact .inl (((faultsIn_needSgb (codes := [.sgbAbsent]) s (by decide)).map _).of_answer h)
  case sgbAtfRd | sgbCuratfRd | sgbPktRd => exact .inl ((faultsIn_sgbRead ..).of_answer h)
  case vramWr b a d => exact (vram_memoryPort b a d).write.ownFault rfl (faultsIn_vramIndex ..) h
  case oamWr x d => exact (oamWr_storesForOwner x d).ownFault rfl (faultsIn_oamByteIndex x) h
  case eramWr b a d => exact (eram_memoryPort b a d).write.ownFault rfl (faultsIn_eramIndex ..) h
  case eramfWr a d => exact (eramf_memoryPort a d).write.ownFault rfl (faultsIn_flatIndex ..) h
  case palWr p x d => exact (palWr_storesForOwner p x d).ownFault rfl (faultsIn_palByteIndex x) h
  case ioWr x d => exact (ioWr_storesForOwner x d).ownFault rfl (faultsIn_ok _ _) h
  case sgbInit => exact sgbInit_storesForOwner.ownFault rfl (faultsIn_ok _ _) h
  case sgbEnd => exact sgbEnd_storesForOwner.ownFault rfl (faultsIn_ok _ _) h

/-! ## The obligation -/

/-- Settles O16: a fault response was raised, and each request raises only what its checks can. -/
theorem requestsRaiseOnlyTheirFaults : Obligations.RequestsRaiseOnlyTheirFaults := by
  unfold Obligations.RequestsRaiseOnlyTheirFaults
  intro i s t c f h hr
  rw [exec_eq_raise_of_fault h hr] at h
  exact exec_ownFault h

end Sys2Proof.Machine
end

section
/-! PROOFS. Storage that a mode does not use (41_palette_lut.md R200, 10_state.md R34): outside CGBEnabled mode only
PAL_RD sees the palette RAMs, and in DMG mode bank 1 of VRAM is neither read nor written. -/

namespace Sys2Proof.Machine

/-! ## Two states that get the same reply -/

/-- On `s'` a run gives the reply it gives on `s`. -/
def SameReply (run : State → Result) (s s' : State) : Prop :=
  ∀ t, run s = .next t → ∃ t', run s' = .next t' ∧ t'.reply = t.reply

section
variable {run : State → Result} {s s' : State}

theorem SameReply.of_answer {f : State → Except SpecFault Response} (hrun : ∀ s, run s = answer s (f s))
    (hf : f s' = f s) : SameReply run s s' := by
  intro t h
  rw [hrun] at h
  rw [hrun, hf]
  exact answer_reply_of_answer h s'

theorem StoresForOwner.sameReply {α : Type} {op : BitVec 6} {place : Config → Except SpecFault α}
    {put : α → State → State × List SgbCommand} (hk : StoresForOwner op run place put) (hs : sameControl s s')
    (hev : ∀ a, (put a s').2 = (put a s).2) : SameReply run s s' := by
  intro t h
  have hplace : place s'.cfg = place s.cfg := congrArg place hs.cfg
  have hagent : s'.port.agent = s.port.agent := congrArg Request.agent hs.port
  obtain ⟨ha, a, hp, rfl⟩ | ⟨ha, f, hp, rfl⟩ | ⟨ha, rfl⟩ := hk.cases h
  · exact ⟨_, hk.run_ok (hagent.trans ha) (hplace.trans hp), by rw [respondWith_reply, respondWith_reply, hev]⟩
  · exact ⟨_, hk.run_error (hagent.trans ha) (hplace.trans hp), rfl⟩
  · exact ⟨_, hk.run_observer (hagent.trans ha), rfl⟩

/-- The events of a P1 write are those of the engine, which sees no byte. -/
theorem ioWrite_events_congr (hs : sameControl s s') (x d : Byte) : (s'.ioWrite x d).2 = (s.ioWrite x d).2 := by
  unfold State.ioWrite
  split
  · simp only [State.p1Write, memWrite_sgbPresent, memWrite_cfg, memWrite_sgb, memWrite_draws, hs.present, hs.cfg,
      hs.sgb, hs.draws]
    split <;> rfl
  · rfl

/-- What an Owner-only request answers depends on the control state alone. -/
theorem exec_sameReply_of_ownerOnly {i : Instr} (hown : ownerOnly i = true) (hs : sameControl s s') :
    SameReply (exec i) s s' := by
  cases i
  case vramWr b a d => exact (vram_memoryPort b a d).write.sameReply hs fun _ => rfl
  case oamWr x d => exact (oamWr_storesForOwner x d).sameReply hs fun _ => rfl
  case eramWr b a d => exact (eram_memoryPort b a d).write.sameReply hs fun _ => rfl
  case eramfWr a d => exact (eramf_memoryPort a d).write.sameReply hs fun _ => rfl
  case ioWr x d => exact (ioWr_storesForOwner x d).sameReply hs fun _ => ioWrite_events_congr hs x d
  case palWr p x d => exact (palWr_storesForOwner p x d).sameReply hs fun _ => rfl
  case sgbInit => exact sgbInit_storesForOwner.sameReply hs fun _ => rfl
  case sgbEnd => exact sgbEnd_storesForOwner.sameReply hs fun _ => rfl
  all_goals cases hown

end

theorem exec_ioRd (x : Byte) (s : State) : exec (.ioRd x) s = answer s (.ok (.byte (s.ioRead x))) := rfl

theorem exec_composePixel (bgci : U2) (bgpri : Bool) (objci : U2) (objpri : Bool) (s : State) :
    exec (.composePixel bgci bgpri objci objpri) s =
      answer s (.ok (.layer (s.selectLayer bgci bgpri objci objpri))) := rfl

/-! ## The palette RAMs -/

/-- The state with the contents of both palette RAMs replaced. -/
def State.withPalettes (s : State) (m n : Memory) : State := { s with bgPal := m, objPal := n }

section
variable {s : State} (hm : s.cfg.mode ≠ .cgbEnabled) (m n : Memory)
include hm

/-- The palette RAMs are the colour source of CGBEnabled mode alone (41_palette_lut.md R200). -/
theorem withPalettes_resolve (spr : Bool) (pal : Nat) (ci : U2) :
    (s.withPalettes m n).resolve spr pal ci = s.resolve spr pal ci := by
  cases hmode : s.cfg.mode with
  | dmg =>
    rw [resolve_dmg hmode, resolve_dmg (s := s.withPalettes m n) hmode]
    rfl
  | gbcCompat =>
    rw [resolve_gbcCompat hmode, resolve_gbcCompat (s := s.withPalettes m n) hmode]
    rfl
  | cgbEnabled => exact absurd hmode hm

theorem withPalettes_rasterList (e : OamEntryView) : (s.withPalettes m n).rasterList e = s.rasterList e := by
  have haction (pal : Nat) (ci : U2) : (s.withPalettes m n).spriteAction pal ci = s.spriteAction pal ci := by
    rw [State.spriteAction, State.spriteAction, withPalettes_resolve hm]
    rfl
  have hpixel : (s.withPalettes m n).rasterPixel e = s.rasterPixel e := by
    funext xy
    rw [State.rasterPixel, State.rasterPixel, haction]
    rfl
  rw [State.rasterList, State.rasterList, hpixel]
  rfl

theorem exec_withPalettes_sameReply {i : Instr} (hi : ∀ p x, i ≠ .palRd p x) :
    SameReply (exec i) s (s.withPalettes m n) := by
  cases hown : ownerOnly i with
  | true => exact exec_sameReply_of_ownerOnly hown ⟨rfl, rfl, rfl, rfl, rfl, rfl, rfl⟩
  | false =>
    cases i
    case palRd p x => exact absurd rfl (hi p x)
    case resolveColor | resolveBgColor =>
      exact .of_answer (fun _ => rfl) (by rw [withPalettes_resolve hm])
    case rasterSprite obj =>
      refine .of_answer (exec_rasterSprite obj) ?_
      simp only [withPalettes_rasterList hm]
      rfl
    case ioRd x => exact .of_answer (exec_ioRd x) rfl
    case composePixel a b c d => exact .of_answer (exec_composePixel a b c d) rfl
    case vramRd | oamRd | eramRd | eramfRd | resolveSgbColor | decodeTileRow | decodeSprite | spriteVisible | sgbStatus
        | sgbPalRd | sgbSnespalRd | sgbAtfRd | sgbCuratfRd | sgbPktRd =>
      refine .of_answer (fun _ => rfl) ?_
      rfl
    all_goals cases hown

end

/-! ## Bank 1 of VRAM in DMG mode -/

/-- The state with the contents of VRAM replaced. -/
def State.withVram (s : State) (m : Memory) : State := { s with vram := m }

theorem vramIndex_lt_of_dmg {c : Config} {bank addr i : Nat} (hm : c.mode = .dmg)
    (h : vramIndex c bank addr = .ok (.byteAt i)) : i < 0x2000 := by
  have hlt := vramIndex_inRange h
  rwa [vramBytes, hm] at hlt

theorem spriteHeight_le (s : State) : s.spriteHeight ≤ 16 := by
  unfold State.spriteHeight
  split <;> decide

theorem spriteTile_le (height : Nat) (tile : Byte) : spriteTile height tile ≤ 255 := by
  rw [spriteTile_eq]
  split <;> omega

theorem physicalRow_lt (yflip : Bool) {height r : Nat} (hr : r < height) : physicalRow yflip height r < height := by
  unfold physicalRow
  split <;> omega

theorem flippedRow_lt (vflip : Bool) (row : BitVec 3) : flippedRow vflip row < 8 := by
  unfold flippedRow
  split <;> omega

theorem mapFaults_congr {α β : Type} {f g : α → Except SpecFault β} {l : List α} (h : ∀ a ∈ l, f a = g a) :
    mapFaults f l = mapFaults g l := by
  induction l with
  | nil => rfl
  | cons a rest ih => simp only [mapFaults, h a (by simp), ih fun b hb => h b (by simp [hb])]

section
variable {s : State} (hm : s.cfg.mode = .dmg) {m : Memory}
  (hbank0 : ∀ a, a < 0x2000 → memGet m a = s.memRead .vram a)
include hm hbank0

theorem withVram_vramAt {bank addr : Nat} {p : VramPlace} (hp : vramIndex s.cfg bank addr = .ok p) :
    (s.withVram m).vramAt p = s.vramAt p := by
  cases p with
  | absent => rfl
  | byteAt i => exact hbank0 i (vramIndex_lt_of_dmg hm hp)

/-- A fetch of bank 1 does not reach VRAM, and one of bank 0 only its bank. -/
theorem withVram_vramFetch {bank off : Nat} (hb : bank ≤ 1) (hoff : off < 0x2000) :
    (s.withVram m).vramFetch bank off = s.vramFetch bank off := by
  by_cases hb1 : bank = 1
  · have habsent : bank1Absent s.cfg bank = true := (bank1Absent_iff _ _).mpr ⟨hb1, hm⟩
    rw [State.vramFetch, State.vramFetch, if_pos habsent]
    exact if_pos habsent
  · have hpresent : ¬bank1Absent s.cfg bank = true := by simp [bank1Absent_iff, hb1]
    rw [State.vramFetch, State.vramFetch, if_neg hpresent, ← hbank0 _ (by rw [bankSize]; omega)]
    exact if_neg hpresent

theorem withVram_tileRow {bank t r : Nat} (hb : bank ≤ 1) (hrow : rowOffset t r + 1 < 0x2000) (hflip : Bool) :
    (s.withVram m).tileRow bank t r hflip = s.tileRow bank t r hflip := by
  rw [State.tileRow, State.tileRow, withVram_vramFetch hm hbank0 hb (by omega), withVram_vramFetch hm hbank0 hb hrow]

/-- The rows DECODE_TILE_ROW reads are those of 384 tiles. -/
theorem withVram_tileIndex_map (b : BitVec 1) (tile : BitVec 9) (row : BitVec 3) (hflip vflip : Bool) :
    ((tileIndex tile).map fun t => Response.row ((s.withVram m).tileRow b.toNat t (flippedRow vflip row) hflip)) =
      (tileIndex tile).map fun t => .row (s.tileRow b.toNat t (flippedRow vflip row) hflip) := by
  by_cases ht : tile.toNat < 384
  · have hrow := flippedRow_lt vflip row
    have hoff : rowOffset tile.toNat (flippedRow vflip row) + 1 < 0x2000 := by
      rw [rowOffset]
      omega
    rw [tileIndex_ok ht]
    exact congrArg (Except.ok ∘ Response.row) (withVram_tileRow hm hbank0 (Nat.le_of_lt_succ b.isLt) hoff hflip)
  · rw [tileIndex, if_pos (Nat.le_of_not_lt ht)]
    rfl

theorem withVram_spriteRow (e : OamEntryView) {r : Nat} (hr : r < s.spriteHeight) :
    (s.withVram m).spriteRow e r = s.spriteRow e r := by
  have hbank : spriteBank s.cfg.mode e.info ≤ 1 := by
    rw [hm]
    exact Nat.zero_le 1
  have htile := spriteTile_le s.spriteHeight e.tile
  have hphys := physicalRow_lt (infoYflip e.info) hr
  have hheight := spriteHeight_le s
  have hrow : rowOffset (spriteTile s.spriteHeight e.tile) (physicalRow (infoYflip e.info) s.spriteHeight r) + 1 <
      0x2000 := by
    rw [rowOffset]
    omega
  exact withVram_tileRow hm hbank0 hbank hrow _

theorem withVram_spriteGrid (e : OamEntryView) : (s.withVram m).spriteGrid e = s.spriteGrid e :=
  List.map_congr_left fun _ hr => withVram_spriteRow hm hbank0 e (List.mem_range.mp hr)

theorem withVram_rasterList (e : OamEntryView) : (s.withVram m).rasterList e = s.rasterList e := by
  refine mapFaults_congr fun xy hxy => ?_
  have hr : xy.2 < s.spriteHeight := by
    obtain ⟨k, hk, rfl⟩ : ∃ k, k < 8 * s.spriteHeight ∧ (k % 8, k / 8) = xy := by
      have hxy : xy ∈ rasterOrder s.spriteHeight := hxy
      simpa [rasterOrder_eq] using hxy
    show k / 8 < s.spriteHeight
    omega
  rw [State.rasterPixel, State.rasterPixel, withVram_spriteRow hm hbank0 e hr]
  rfl

theorem exec_withVram_sameReply (i : Instr) : SameReply (exec i) s (s.withVram m) := by
  cases hown : ownerOnly i with
  | true => exact exec_sameReply_of_ownerOnly hown ⟨rfl, rfl, rfl, rfl, rfl, rfl, rfl⟩
  | false =>
    cases i
    case vramRd b a =>
      refine .of_answer (fun _ => rfl) ?_
      show (vramIndex s.cfg b.toNat a.toNat).map _ = (vramIndex s.cfg b.toNat a.toNat).map _
      cases hp : vramIndex s.cfg b.toNat a.toNat with
      | error f => rfl
      | ok p => exact congrArg (Except.ok ∘ Response.byte) (withVram_vramAt hm hbank0 hp)
    case decodeTileRow b t r hf vf =>
      refine .of_answer (fun s => exec_decodeTileRow s b r hf vf) ?_
      simp only [withVram_tileIndex_map hm hbank0]
    case decodeSprite obj =>
      refine .of_answer (fun _ => rfl) ?_
      simp only [withVram_spriteGrid hm hbank0]
      rfl
    case rasterSprite obj =>
      refine .of_answer (exec_rasterSprite obj) ?_
      simp only [withVram_rasterList hm hbank0]
      rfl
    case ioRd x => exact .of_answer (exec_ioRd x) rfl
    case composePixel a b c d => exact .of_answer (exec_composePixel a b c d) rfl
    case palRd p x =>
      refine .of_answer (fun _ => rfl) ?_
      cases p <;> rfl
    case resolveColor spr pal ci =>
      refine .of_answer (exec_resolveColor · spr pal ci) ?_
      cases spr <;> rfl
    case oamRd | eramRd | eramfRd | resolveBgColor | resolveSgbColor | spriteVisible | sgbStatus
        | sgbPalRd | sgbSnespalRd | sgbAtfRd | sgbCuratfRd | sgbPktRd =>
      refine .of_answer (fun _ => rfl) ?_
      rfl
    all_goals cases hown

end

/-- No request writes VRAM above bank 0 in DMG mode. -/
theorem exec_memRead_vram_bank1 {i : Instr} {s t : State} (hm : s.cfg.mode = .dmg) (h : exec i s = .next t) {a : Nat}
    (ha : 0x2000 ≤ a) : t.memRead .vram a = s.memRead .vram a := by
  obtain hsame | ⟨u, ev, hst, hsame⟩ := exec_hardware h
  · exact hsame.bytes .vram a
  rw [hsame.bytes]
  by_cases hne : u.space .vram = s.space .vram
  · rw [State.memRead, State.memRead, hne]
  · obtain ⟨b, addr, d, rfl⟩ := hst.writesSpace hne
    cases hst with
    | @vramWr _ _ _ p hp =>
      cases p with
      | absent => rfl
      | byteAt k =>
        have hk := vramIndex_lt_of_dmg hm hp
        exact memRead_memWrite_other _ _ _ _ _ _ (by omega)

/-! ## The obligations -/

/-- Settles O32: only the colour of CGBEnabled mode and PAL_RD read the palette RAMs. -/
theorem paletteRamsUnseenOutsideCgb : Obligations.PaletteRamsUnseenOutsideCgb := by
  unfold Obligations.PaletteRamsUnseenOutsideCgb
  exact fun i s t m n hm hi h => exec_withPalettes_sameReply hm m n hi t h

/-- Settles O39: every fetch is of bank 0 or of the absent bank, and every store is within bank 0. -/
theorem dmgNeverTouchesBankOne : Obligations.DmgNeverTouchesBankOne := by
  unfold Obligations.DmgNeverTouchesBankOne
  exact fun i s t m hm hbank0 h =>
    ⟨exec_withVram_sameReply hm hbank0 i t h, fun a ha => exec_memRead_vram_bank1 hm h ha⟩

end Sys2Proof.Machine
end

section
/-! PROOFS. The bit that completes a packet (44_sgb_packet_engine.md R334 to R336): the engine waits for the next
packet, or it emits the command's event, applies the command and is idle again. -/

namespace Sys2Proof.Machine

/-! ## The header of a packet -/

/-- Bits 2:0 of the header count the packets; 0 asks for the configuration's number (44_sgb_packet_engine.md R335). -/
theorem numPackets_eq (c : Config) (h : Byte) :
    numPackets c h = if h.toNat % 8 ≠ 0 then h.toNat % 8 else c.sgbLen0Packets := by
  have hlow : (h.extractLsb' 0 3).toNat = h.toNat % 8 := by simp
  have hzero : h.extractLsb' 0 3 ≠ 0 ↔ h.toNat % 8 ≠ 0 := by
    rw [← hlow, Ne, Ne, ← BitVec.toNat_inj]
    rfl
  simp only [numPackets, hzero, hlow]

/-- Bits 7:3 of the header are the command code. -/
theorem commandCode_eq (g : SgbState) : commandCode g = BitVec.ofNat 5 ((tabGet g.data 0 0).toNat / 8) := by
  apply BitVec.eq_of_toNat_eq
  simp [commandCode, packet0, Nat.shiftRight_eq_div_pow]

/-- The last bit of a packet is not in the header. -/
theorem tabGet_shiftedBuffer_header {g : SgbState} (sel : U2) (hp : g.currpacket < 7) (h15 : g.currbyte = 15) :
    tabGet (shiftedBuffer g sel) 0 0 = tabGet g.data 0 0 := by
  rw [tabGet_shiftedBuffer sel hp (by omega), if_neg (by omega)]

/-! ## The bytes of a command -/

/-- Byte `b` of row `p` of rows of 16 joined. -/
theorem getElem?_flatten_rows (rows : List (Vector Byte 16)) (p : Nat) {b : Nat} (hb : b < 16) :
    ((rows.map fun row => row.toList).flatten)[16 * p + b]? = rows[p]?.bind fun row => row[b]? := by
  induction rows generalizing p with
  | nil => simp
  | cons row rows ih =>
    cases p with
    | zero => simp [List.getElem?_append, hb]
    | succ p =>
      have hidx : 16 * (p + 1) + b - 16 = 16 * p + b := by omega
      rw [List.map_cons, List.flatten_cons, List.getElem?_append_right (by simp; omega), Vector.length_toList, hidx, ih]
      rfl

theorem length_flatten_rows (rows : List (Vector Byte 16)) :
    (rows.map fun row => row.toList).flatten.length = 16 * rows.length := by
  induction rows with
  | nil => rfl
  | cons row rows ih =>
    rw [List.map_cons, List.flatten_cons, List.length_append, Vector.length_toList, ih, List.length_cons]
    omega

section
variable {g : SgbState}

theorem commandBytes_length (h : g.numpackets ≤ 7) : (commandBytes g).length = 16 * g.numpackets := by
  rw [commandBytes, length_flatten_rows, List.length_take, Vector.length_toList, Nat.min_eq_left h]

theorem commandBytes_getElem? (h : g.numpackets ≤ 7) {p b : Nat} (hp : p < g.numpackets) (hb : b < 16) :
    (commandBytes g)[16 * p + b]? = some (tabGet g.data p b) := by
  have hp7 : p < 7 := by omega
  rw [commandBytes, getElem?_flatten_rows _ _ hb, List.getElem?_take_of_lt hp]
  simp [tabGet, hp7, hb]

end

/-! ## The last bit of a packet -/

section
variable {c : Config} {sel : U2} {r : SgbRun}

/-- The record at the end of a packet is `nextPacket`, whose numbers are those of the header. -/
theorem completedPacket_shifted {g : SgbState} (sel : U2) (hp : g.currpacket < 7) (h15 : g.currbyte = 15) :
    completedPacket c { g with data := shiftedBuffer g sel, currbit := 0, currbyte := 16 } = nextPacket c g sel := by
  have hcount : (if g.currpacket + 1 = 1 then numPackets c (tabGet (shiftedBuffer g sel) 0 0) else g.numpackets) =
      packetsOf c g := by
    rw [tabGet_shiftedBuffer_header sel hp h15, numPackets_eq]
    simp only [packetsOf, Nat.add_eq_right]
  simp only [completedPacket, packet0, hcount, nextPacket]

theorem lineStep_lastBit (hb : bitTaken sel r.sgb = true) (hp : r.sgb.currpacket < 7) (h7 : r.sgb.currbit = 7)
    (h15 : r.sgb.currbyte = 15) :
    (r.sgb.currpacket + 1 ≠ packetsOf c r.sgb →
      lineStep c sel r = { r with sgb := { nextPacket c r.sgb sel with waitReset := true, prevSel := sel } }) ∧
    (r.sgb.currpacket + 1 = packetsOf c r.sgb →
      lineStep c sel r = { completeCommand { r with sgb := nextPacket c r.sgb sel } with
        sgb := { (completeCommand { r with sgb := nextPacket c r.sgb sel }).sgb with prevSel := sel } }) := by
  have hbyte : finishByte (shiftBit (sel == 0b01) r.sgb) =
      { r.sgb with data := shiftedBuffer r.sgb sel, currbit := 0, currbyte := 16 } := by
    rw [finishByte_shiftBit sel (by omega), h7, h15]
  have hnext := completedPacket_shifted (c := c) sel hp h15
  rw [lineStep_bit hb, hbyte]
  obtain ⟨h16, -⟩ | ⟨-, hlast, e⟩ | ⟨-, hmore, e⟩ := finishPacket_cases c
    { r with sgb := { r.sgb with data := shiftedBuffer r.sgb sel, currbit := 0, currbyte := 16 } }
  · exact absurd rfl h16
  · rw [hnext] at hlast e
    exact ⟨fun hne => absurd hlast hne, fun _ => by rw [e]⟩
  · rw [hnext] at hmore e
    exact ⟨fun _ => by rw [e], fun heq => absurd heq hmore⟩

end

/-- The commands that use a free value (log 8) by their codes. -/
theorem drawsValue_iff (code : BitVec 5) :
    drawsValue (sgbCmdOf code) = true ↔ code.toNat ∈ [0x04, 0x05, 0x06, 0x07, 0x0B, 0x14, 0x15] := by
  revert code
  decide

theorem commandCode_nextPacket {c : Config} {g : SgbState} (sel : U2) (hp : g.currpacket < 7) (h15 : g.currbyte = 15) :
    commandCode (nextPacket c g sel) = BitVec.ofNat 5 ((tabGet g.data 0 0).toNat / 8) := by
  rw [commandCode_eq, ← tabGet_shiftedBuffer_header sel hp h15]
  rfl

/-! ## The obligations -/

/-- Settles O49: the last bit brings the byte cursor to 16, so the packet completes, and it is not the last. -/
theorem packetCompletionCountsAndWaits : Obligations.PacketCompletionCountsAndWaits := by
  unfold Obligations.PacketCompletionCountsAndWaits
  intro c g n sel hinv hsel hprev hs hw h7 h15 hmore
  have hb : bitTaken sel g = true := (bitTaken_iff sel g).mpr ⟨hsel, hprev, hs, hw⟩
  obtain ⟨hwait, -⟩ := lineStep_lastBit (c := c) (r := ⟨g, n, []⟩) hb (hinv.currpacket_lt hs) h7 h15
  exact hwait hmore

/-- Settles O50: the completed record is `nextPacket`; the command's event is read off it, and its apply rule leaves the
cursors alone. -/
theorem lastPacketEmitsAndApplies : Obligations.LastPacketEmitsAndApplies := by
  unfold Obligations.LastPacketEmitsAndApplies
  intro c g n sel hinv hsel hprev hs hw h7 h15 hlast code r
  have hp := hinv.currpacket_lt hs
  have hb : bitTaken sel g = true := (bitTaken_iff sel g).mpr ⟨hsel, hprev, hs, hw⟩
  obtain ⟨-, hdone⟩ := lineStep_lastBit (c := c) (r := ⟨g, n, []⟩) hb hp h7 h15
  have hcode : commandCode (nextPacket c g sel) = code := commandCode_nextPacket sel hp h15
  have hcount : (nextPacket c g sel).numpackets ≤ 7 := by
    show packetsOf c g ≤ 7
    omega
  have hr : r = ⟨{ applyCommand (sgbCmdOf code) n (nextPacket c g sel) with
      sending := false, waitReset := false, prevSel := sel },
      if drawsValue (sgbCmdOf code) then n + 1 else n, [commandEvent (nextPacket c g sel)]⟩ := by
    have hline : r = _ := hdone hlast
    simp only [hline, completeCommand, hcode, List.nil_append]
  rw [hr]
  refine ⟨rfl, ?packet, ?bit, ?byte, ?draws, _, rfl, hcode, rfl, commandBytes_length hcount,
    fun p b hpk hbk => commandBytes_getElem? hcount hpk hbk⟩
  case packet => exact (applyCommand_currpacket _ _ _).trans hlast
  case bit => exact applyCommand_currbit _ _ _
  case byte => exact applyCommand_currbyte _ _ _
  case draws => simp only [drawsValue_iff]

end Sys2Proof.Machine
end

section
/-! PROOFS. A whole transfer (44_sgb_packet_engine.md R390): what the engine holds while the bytes of a command arrive,
bit by bit, byte by byte and packet by packet, until the command completes. -/

namespace Sys2Proof.Machine

/-! ## The part of the engine a transfer is made of -/

/-- A run without prev_sel, the tables and the polling state. -/
structure Transfer where
  sending : Bool
  waitReset : Bool
  currbit : Nat
  currbyte : Nat
  currpacket : Nat
  numpackets : Nat
  data : Table Byte 7 16
  events : List SgbCommand

/-- The transfer of a run. -/
def SgbRun.transfer (r : SgbRun) : Transfer :=
  ⟨r.sgb.sending, r.sgb.waitReset, r.sgb.currbit, r.sgb.currbyte, r.sgb.currpacket, r.sgb.numpackets, r.sgb.data,
    r.events⟩

theorem withPrevSel_transfer (r : SgbRun) (sel : U2) :
    SgbRun.transfer { r with sgb := { r.sgb with prevSel := sel } } = r.transfer := rfl

section
variable {c : Config} {sel : U2} {r : SgbRun}

/-- The multiplayer step is no part of a transfer. -/
theorem engineWrite_transfer : (engineWrite c sel r).transfer = (lineStep c sel r).transfer := by
  have hstep (g : SgbState) : (SgbRun.transfer { lineStep c sel r with sgb := multiplayerStep sel g }) =
      SgbRun.transfer { lineStep c sel r with sgb := g } := by
    unfold multiplayerStep
    split_ifs <;> rfl
  exact hstep _

theorem engineWrite_transfer_of_notTaken (h0 : sel ≠ 0b00) (hb : bitTaken sel r.sgb = false) :
    (engineWrite c sel r).transfer = r.transfer := by
  rw [engineWrite_transfer, lineStep_notTaken h0 hb]
  rfl

/-- Of a bit only its select write moves a transfer. -/
theorem engineWrites_bitWrites_transfer (bit : Bool) :
    (engineWrites c (bitWrites bit) r).transfer = (lineStep c (bitLine bit) r).transfer := by
  rw [engineWrites_bitWrites, engineWrite_transfer_of_notTaken (by decide) (bitTaken_idle _), engineWrite_transfer]

theorem engineWrites_bitWrites_prevSel (bit : Bool) : (engineWrites c (bitWrites bit) r).sgb.prevSel = 0b11 := by
  rw [engineWrites_bitWrites, engineWrite_prevSel]

/-- A reset pulse and the idle write after it. -/
theorem engineWrites_pulseWrites (c : Config) (r : SgbRun) :
    engineWrites c pulseWrites r = engineWrite c 0b11 (engineWrite c 0b00 r) := rfl

theorem engineWrites_pulseWrites_transfer :
    (engineWrites c pulseWrites r).transfer = SgbRun.transfer { r with sgb := resetPulse r.sgb } := by
  rw [engineWrites_pulseWrites, engineWrite_transfer_of_notTaken (by decide) (bitTaken_idle _), engineWrite_transfer,
    lineStep_resetPulse]
  rfl

end

/-! ## What the engine holds of a command -/

/-- The bytes received so far stand in the buffer in order, the count is known from the first packet on, and nothing
was emitted. -/
structure Transfer.Holds (t : Transfer) (count : Nat) (bytes : List Byte) : Prop where
  numpackets : 16 ≤ bytes.length → t.numpackets = count
  stored : ∀ i v, bytes[i]? = some v → tabGet t.data (i / 16) (i % 16) = v
  events : t.events = []

/-- The engine receives bit `k` of the byte after `bytes`, which holds `v`. -/
structure SgbRun.Taking (r : SgbRun) (count : Nat) (bytes : List Byte) (k : Nat) (v : Byte) : Prop where
  receiving : r.sgb.Receiving 0b11 (bytes.length / 16) (bytes.length % 16) k v
  holds : r.transfer.Holds count bytes

/-- The engine waits for the packet after `bytes`. -/
structure Transfer.Waiting (t : Transfer) (count : Nat) (bytes : List Byte) : Prop where
  sending : t.sending = true
  waitReset : t.waitReset = true
  currbit : t.currbit = 0
  currbyte : t.currbyte = 0
  currpacket : 16 * t.currpacket = bytes.length
  holds : t.Holds count bytes

/-- The engine is idle after the command `bytes`, which it has emitted. -/
structure Transfer.Done (t : Transfer) (count : Nat) (bytes : List Byte) (code : BitVec 5) : Prop where
  sending : t.sending = false
  waitReset : t.waitReset = false
  currbit : t.currbit = 0
  currbyte : t.currbyte = 0
  currpacket : t.currpacket = count
  numpackets : t.numpackets = count
  events : t.events = [⟨code, count, bytes⟩]

/-- The engine awaits the reset pulse of the packet after `bytes`: the first one idle, a later one between packets. -/
inductive Transfer.Ready (t : Transfer) (count : Nat) : List Byte → Prop where
  | idle (hs : t.sending = false) (he : t.events = []) : Ready t count []
  | between {bytes : List Byte} (h : t.Waiting count bytes) : Ready t count bytes

section
variable {c : Config} {r : SgbRun} {count : Nat} {bytes : List Byte}

/-- A run at the start of a byte, its previous line value idle, takes the byte its cursors name. -/
theorem taking_of_transfer {t : Transfer} (hprev : r.sgb.prevSel = 0b11) (ht : r.transfer = t)
    (hs : t.sending = true) (hw : t.waitReset = false) (hbit : t.currbit = 0) (hbyte : t.currbyte < 16)
    (hlen : 16 * t.currpacket + t.currbyte = bytes.length) (hholds : t.Holds count bytes) :
    ∃ v, r.Taking count bytes 0 v := by
  have hp : t.currpacket = bytes.length / 16 := by omega
  have hb : t.currbyte = bytes.length % 16 := by omega
  subst ht
  exact ⟨_, ⟨hprev, hs, hw, hp, hb, hbit, rfl⟩, hholds⟩

/-! ## The reset pulse -/

/-- After the pulse the engine takes the first byte of the packet. -/
theorem Transfer.Ready.pulse (h : r.transfer.Ready count bytes) :
    ∃ v, (engineWrites c pulseWrites r).Taking count bytes 0 v := by
  have hprev : (engineWrites c pulseWrites r).sgb.prevSel = 0b11 := engineWrite_prevSel _ _ _
  have ht := engineWrites_pulseWrites_transfer (c := c) (r := r)
  cases h with
  | idle hs he =>
    rw [resetPulse_idle hs] at ht
    exact taking_of_transfer hprev ht rfl rfl rfl (Nat.succ_pos 15) rfl
      ⟨fun h => by simp at h, fun i v h => by simp at h, he⟩
  | between h =>
    obtain ⟨hs, hw, hbit, hbyte, hpacket, hnum, hstored, hevents⟩ := h
    rw [resetPulse_betweenPackets hs hw] at ht
    exact taking_of_transfer hprev ht hs rfl hbit (hbyte.trans_lt (Nat.succ_pos 15))
      ((congrArg (16 * r.sgb.currpacket + ·) hbyte).trans hpacket) ⟨hnum, hstored, hevents⟩

/-! ## The bits of a byte -/

/-- The cell at the cursors is none of the cells already received. -/
theorem cell_ne_of_lt {i n : Nat} (hi : i < n) : ¬(i / 16 = n / 16 ∧ i % 16 = n % 16) := by omega

section
variable {k : Nat} {v : Byte}

theorem SgbRun.Taking.currpacket_lt (h : r.Taking count bytes k v) (hlen : bytes.length < 112) :
    r.sgb.currpacket < 7 := by
  rw [h.receiving.packet]
  omega

theorem SgbRun.Taking.currbyte_lt (h : r.Taking count bytes k v) : r.sgb.currbyte < 16 := by
  rw [h.receiving.byte]
  exact Nat.mod_lt _ (by decide)

/-- Shifting a bit into the byte at the cursors keeps the bytes already received. -/
theorem SgbRun.Taking.shifted_stored (h : r.Taking count bytes k v) (hlen : bytes.length < 112) (sel : U2) {i : Nat}
    {w : Byte} (hi : bytes[i]? = some w) : tabGet (shiftedBuffer r.sgb sel) (i / 16) (i % 16) = w := by
  obtain ⟨hlt, -⟩ := List.getElem?_eq_some_iff.mp hi
  rw [tabGet_shiftedBuffer sel (h.currpacket_lt hlen) h.currbyte_lt, h.receiving.packet, h.receiving.byte,
    if_neg (cell_ne_of_lt hlt)]
  exact h.holds.stored i w hi

/-- With its last bit the byte at the cursors is received too. -/
theorem SgbRun.Taking.shifted_stored_snoc (h : r.Taking count bytes k v) (hlen : bytes.length < 112) (bit : Bool)
    {i : Nat} {w : Byte} (hi : (bytes ++ [shiftedByte bit v])[i]? = some w) :
    tabGet (shiftedBuffer r.sgb (bitLine bit)) (i / 16) (i % 16) = w := by
  rcases Nat.lt_or_ge i bytes.length with hlt | hge
  · rw [List.getElem?_append_left hlt] at hi
    exact h.shifted_stored hlen _ hi
  · obtain ⟨hlt, -⟩ := List.getElem?_eq_some_iff.mp hi
    obtain rfl : i = bytes.length := by
      rw [List.length_append, List.length_singleton] at hlt
      omega
    rw [tabGet_shiftedBuffer _ (h.currpacket_lt hlen) h.currbyte_lt, h.receiving.packet, h.receiving.byte,
      if_pos ⟨rfl, rfl⟩, h.receiving.value, bitLine_beq]
    simpa using hi

/-- A bit that is not the last of its packet. -/
theorem SgbRun.Taking.bit_transfer (h : r.Taking count bytes k v) (bit : Bool) (hk : k < 8)
    (hlast : ¬(k = 7 ∧ bytes.length % 16 = 15)) : (engineWrites c (bitWrites bit) r).transfer =
      { r.transfer with
        data := shiftedBuffer r.sgb (bitLine bit)
        currbit := (k + 1) % 8
        currbyte := bytes.length % 16 + (k + 1) / 8 } := by
  have hbit := h.receiving.bit
  have hbyte := h.receiving.byte
  rw [engineWrites_bitWrites_transfer, lineStep_bit_midPacket (h.receiving.bitTaken bit) (by omega) h.currbyte_lt
    (by omega), ← hbit, ← hbyte]
  rfl

/-- A bit that is not the last of its byte. -/
theorem SgbRun.Taking.bit (h : r.Taking count bytes k v) (hlen : bytes.length < 112) (hk : k < 7) (bit : Bool) :
    (engineWrites c (bitWrites bit) r).Taking count bytes (k + 1) (shiftedByte bit v) where
  receiving := engineWrites_bitWrites_receiving bit h.receiving (by omega) (Nat.mod_lt _ (by decide)) hk
  holds := by
    rw [h.bit_transfer bit (by omega) (by omega)]
    exact ⟨h.holds.numpackets, fun i w => h.shifted_stored hlen _, h.holds.events⟩

/-- The bits of a byte but its last. -/
theorem SgbRun.Taking.bits (bits : List Bool) (h : r.Taking count bytes k v) (hlen : bytes.length < 112)
    (hk : k + bits.length ≤ 7) :
    (engineWrites c (bits.flatMap bitWrites) r).Taking count bytes (k + bits.length) (shiftedBits bits v) := by
  induction bits generalizing r k v with
  | nil => exact h
  | cons bit bits ih =>
    rw [List.length_cons] at hk ⊢
    rw [List.flatMap_cons, engineWrites_append, ← Nat.add_assoc, Nat.add_right_comm]
    exact ih (h.bit hlen (by omega) bit) (by omega)

/-- The last bit of a byte that is not the last of its packet. -/
theorem SgbRun.Taking.lastBit (h : r.Taking count bytes 7 v) (hlen : bytes.length < 112)
    (hmid : bytes.length % 16 ≠ 15) (bit : Bool) :
    ∃ w, (engineWrites c (bitWrites bit) r).Taking count (bytes ++ [shiftedByte bit v]) 0 w := by
  have ht := h.bit_transfer (c := c) bit (by decide) (by omega)
  refine taking_of_transfer (engineWrites_bitWrites_prevSel bit) ht h.receiving.sending h.receiving.waitReset rfl
    ?inPacket ?cursors ⟨?count, fun i w => h.shifted_stored_snoc hlen bit, h.holds.events⟩
  case inPacket =>
    show bytes.length % 16 + 1 < 16
    omega
  case cursors =>
    show 16 * r.sgb.currpacket + (bytes.length % 16 + 1) = _
    rw [h.receiving.packet, List.length_append, List.length_singleton]
    omega
  case count =>
    rw [List.length_append, List.length_singleton]
    exact fun hge => h.holds.numpackets (by omega)

end

/-! ## The bytes of a packet -/

/-- The bits a byte is sent as, first to last, shift in as the byte. -/
theorem shiftedBits_byte (v w : Byte) : shiftedBits ((List.range 8).map v.getLsbD) w = v := by
  refine BitVec.eq_of_getLsbD_eq fun i hi => ?_
  rw [getLsbD_shiftedBits _ _ hi]
  simp [hi]

/-- Seven bits and the last one. -/
theorem shiftedByte_shiftedBits (v w : Byte) :
    shiftedByte (v.getLsbD 7) (shiftedBits ((List.range 7).map v.getLsbD) w) = v := by
  calc shiftedByte (v.getLsbD 7) (shiftedBits ((List.range 7).map v.getLsbD) w)
      = shiftedBits ((List.range 7).map v.getLsbD ++ [v.getLsbD 7]) w := by
        rw [shiftedBits, shiftedBits, List.foldl_append]
        rfl
    _ = v := shiftedBits_byte v w

theorem byteWrites_eq (v : Byte) :
    byteWrites v = ((List.range 7).map v.getLsbD).flatMap bitWrites ++ bitWrites (v.getLsbD 7) := rfl

section
variable {v w : Byte}

/-- Before its last bit a byte stands shifted up by one place at the cursors. -/
theorem SgbRun.Taking.sevenBits (h : r.Taking count bytes 0 w) (hlen : bytes.length < 112) (v : Byte) :
    (engineWrites c (((List.range 7).map v.getLsbD).flatMap bitWrites) r).Taking count bytes 7
      (shiftedBits ((List.range 7).map v.getLsbD) w) := by
  have hbits := h.bits (c := c) ((List.range 7).map v.getLsbD) hlen (by simp)
  simpa using hbits

/-- A byte that is not the last of its packet. -/
theorem SgbRun.Taking.byte (h : r.Taking count bytes 0 w) (hlen : bytes.length < 112) (hmid : bytes.length % 16 ≠ 15)
    (v : Byte) : ∃ w', (engineWrites c (byteWrites v) r).Taking count (bytes ++ [v]) 0 w' := by
  obtain ⟨w', h'⟩ := (h.sevenBits (c := c) hlen v).lastBit (c := c) hlen hmid (v.getLsbD 7)
  rw [shiftedByte_shiftedBits, ← engineWrites_append, ← byteWrites_eq] at h'
  exact ⟨w', h'⟩

/-- The bytes of a packet but its last. -/
theorem SgbRun.Taking.byteList (d : List Byte) (h : r.Taking count bytes 0 w) (hlen : bytes.length + d.length < 112)
    (hmid : bytes.length % 16 + d.length ≤ 15) :
    ∃ w', (engineWrites c (d.flatMap byteWrites) r).Taking count (bytes ++ d) 0 w' := by
  induction d generalizing r bytes w with
  | nil => exact ⟨w, by rwa [List.append_nil]⟩
  | cons v d ih =>
    rw [List.length_cons] at hlen hmid
    obtain ⟨w', h'⟩ := h.byte (c := c) (by omega) (by omega) v
    rw [List.flatMap_cons, engineWrites_append, List.append_cons]
    refine ih h' ?_ ?_ <;> rw [List.length_append, List.length_singleton] <;> omega

end

/-! ## The end of a packet -/

/-- The engine after the packet that ends `bytes`: waiting for another, or done. -/
structure Transfer.AfterPacket (t : Transfer) (count : Nat) (bytes : List Byte) (code : BitVec 5) : Prop where
  waiting : bytes.length ≠ 16 * count → t.Waiting count bytes
  done : bytes.length = 16 * count → t.Done count bytes code

/-- The bytes of a command are those stored, when they fill its packets. -/
theorem commandBytes_eq_of_stored {g : SgbState} (h7 : g.numpackets ≤ 7) (hlen : bytes.length = 16 * g.numpackets)
    (hstored : ∀ i v, bytes[i]? = some v → tabGet g.data (i / 16) (i % 16) = v) : commandBytes g = bytes := by
  refine List.ext_getElem? fun i => ?_
  rcases Nat.lt_or_ge i bytes.length with hi | hi
  · have hbyte := commandBytes_getElem? h7 (p := i / 16) (b := i % 16) (by omega) (Nat.mod_lt i (by decide))
    rw [Nat.div_add_mod] at hbyte
    rw [hbyte, hstored i _ (List.getElem?_eq_getElem hi), List.getElem?_eq_getElem hi]
  · rw [List.getElem?_eq_none hi, List.getElem?_eq_none (by rw [commandBytes_length h7]; omega)]

/-- Completing a command ends the transfer and emits its event; the apply rule moves no cursor. -/
theorem completeCommand_transfer (r : SgbRun) : (completeCommand r).transfer =
    { r.transfer with sending := false, waitReset := false, events := r.events ++ [commandEvent r.sgb] } := by
  simp only [SgbRun.transfer, completeCommand, applyCommand_currbit, applyCommand_currbyte, applyCommand_currpacket,
    applyCommand_numpackets, applyCommand_data]

theorem SgbRun.Taking.header_stored {k : Nat} {v header : Byte} (h : r.Taking count bytes k v)
    (hheader : bytes[0]? = some header) : tabGet r.sgb.data 0 0 = header := h.holds.stored 0 header hheader

section
variable {k : Nat} {v header : Byte} (hcount : numPackets c header = count)
include hcount

/-- The count read from packet 0, or kept from it, is that of the header. -/
theorem SgbRun.Taking.packetsOf_eq (h : r.Taking count bytes k v) (hheader : bytes[0]? = some header)
    (hend : bytes.length % 16 = 15) : packetsOf c r.sgb = count := by
  by_cases hfirst : bytes.length / 16 = 0
  · have hpacket : r.sgb.currpacket = 0 := h.receiving.packet.trans hfirst
    simp only [packetsOf, hpacket, if_true, h.header_stored hheader]
    rw [← numPackets_eq, hcount]
  · have hpacket : r.sgb.currpacket ≠ 0 := h.receiving.packet.trans_ne hfirst
    rw [packetsOf, if_neg hpacket]
    exact h.holds.numpackets (by omega)

/-- The event of the command that the last bit completes. -/
theorem SgbRun.Taking.commandEvent_eq (h : r.Taking count bytes 7 v) (hlen : bytes.length < 112)
    (hheader : bytes[0]? = some header) (bit : Bool) (hlast : bytes.length + 1 = 16 * count) :
    commandEvent (nextPacket c r.sgb (bitLine bit)) =
      ⟨BitVec.ofNat 5 (header.toNat / 8), count, bytes ++ [shiftedByte bit v]⟩ := by
  have hend : bytes.length % 16 = 15 := by omega
  have hnum : (nextPacket c r.sgb (bitLine bit)).numpackets = count := h.packetsOf_eq hcount hheader hend
  have hbytes : commandBytes (nextPacket c r.sgb (bitLine bit)) = bytes ++ [shiftedByte bit v] := by
    refine commandBytes_eq_of_stored (hnum.trans_le (by omega)) ?_ fun i w => h.shifted_stored_snoc hlen bit
    rw [List.length_append, List.length_singleton, hlast, hnum]
  rw [commandEvent, commandCode_nextPacket _ (h.currpacket_lt hlen) (h.receiving.byte.trans hend),
    h.header_stored hheader, hnum, hbytes]

/-- The last bit of a packet. -/
theorem SgbRun.Taking.packetEnd (h : r.Taking count bytes 7 v) (hlen : bytes.length < 112)
    (hheader : bytes[0]? = some header) (hend : bytes.length % 16 = 15) (bit : Bool) :
    (engineWrites c (bitWrites bit) r).transfer.AfterPacket count (bytes ++ [shiftedByte bit v])
      (BitVec.ofNat 5 (header.toNat / 8)) := by
  have hpacket := h.receiving.packet
  have hnum := h.packetsOf_eq hcount hheader hend
  obtain ⟨hwait, hdone⟩ := lineStep_lastBit (c := c) (h.receiving.bitTaken bit) (h.currpacket_lt hlen) h.receiving.bit
    (h.receiving.byte.trans hend)
  rw [hnum] at hwait hdone
  have hlength : (bytes ++ [shiftedByte bit v]).length = 16 * (r.sgb.currpacket + 1) := by
    rw [List.length_append, List.length_singleton]
    omega
  rw [engineWrites_bitWrites_transfer]
  refine ⟨fun hmore => ?waiting, fun hlast => ?done⟩
  case waiting =>
    rw [hwait (by omega)]
    exact ⟨h.receiving.sending, rfl, rfl, rfl, hlength.symm, fun _ => hnum, fun i w => h.shifted_stored_snoc hlen bit,
      h.holds.events⟩
  case done =>
    have hpackets : r.sgb.currpacket + 1 = count := by omega
    have hevent := h.commandEvent_eq hcount hlen hheader bit (by omega)
    have hnone : r.events = [] := h.holds.events
    rw [hdone hpackets, withPrevSel_transfer, completeCommand_transfer, hevent, hnone]
    exact ⟨rfl, rfl, rfl, rfl, hpackets, hnum, rfl⟩

end

/-! ## A packet -/

/-- The P1 values of `SGB_PACKET` (30_encoding.md R127). -/
def packetWrites (d : List Byte) : List Byte := pulseWrites ++ packetBits d ++ bitWrites false

/-- The stop bit finds the engine waiting or idle, so it is not taken. -/
theorem stopBit_transfer (h : ¬(r.transfer.sending = true ∧ r.transfer.waitReset = false)) :
    (engineWrites c (bitWrites false) r).transfer = r.transfer := by
  have hb : bitTaken (bitLine false) r.sgb = false := by
    rw [← Bool.not_eq_true, bitTaken_iff]
    exact fun ⟨_, _, hs, hw⟩ => h ⟨hs, hw⟩
  rw [engineWrites_bitWrites_transfer, lineStep_notTaken (by decide) hb]
  rfl

theorem Transfer.AfterPacket.not_receiving {t : Transfer} {code : BitVec 5} (h : t.AfterPacket count bytes code) :
    ¬(t.sending = true ∧ t.waitReset = false) := by
  rintro ⟨hs, hw⟩
  by_cases hlast : bytes.length = 16 * count
  · cases hs.symm.trans (h.done hlast).sending
  · cases hw.symm.trans (h.waiting hlast).waitReset

/-- One packet, from its pulse to its stop bit. -/
theorem Transfer.Ready.packet {header : Byte} (hcount : numPackets c header = count) (h7 : count ≤ 7)
    (h : r.transfer.Ready count bytes) {d : List Byte} (hd : d.length = 16) (hstart : bytes.length % 16 = 0)
    (hroom : bytes.length + 16 ≤ 16 * count) (hheader : (bytes ++ d)[0]? = some header) :
    (engineWrites c (packetWrites d) r).transfer.AfterPacket count (bytes ++ d)
      (BitVec.ofNat 5 (header.toNat / 8)) := by
  have hne : d ≠ [] := List.ne_nil_of_length_pos (by omega)
  obtain ⟨init, v, rfl⟩ : ∃ init v, d = init ++ [v] := ⟨_, _, (List.dropLast_append_getLast hne).symm⟩
  rw [List.length_append, List.length_singleton] at hd
  rw [← List.append_assoc, List.getElem?_append_left (by rw [List.length_append]; omega)] at hheader
  have hinit : (bytes ++ init).length = bytes.length + 15 := by
    rw [List.length_append]
    omega
  obtain ⟨w, hpulse⟩ := h.pulse (c := c)
  obtain ⟨w', hbytes⟩ := hpulse.byteList (c := c) init (by omega) (by omega)
  have hlast := (hbytes.sevenBits (c := c) (by omega) v).packetEnd hcount (by omega) hheader (by omega) (v.getLsbD 7)
  rw [shiftedByte_shiftedBits, ← engineWrites_append, ← byteWrites_eq, ← engineWrites_append,
    ← engineWrites_append] at hlast
  have hwrites : packetWrites (init ++ [v]) =
      (pulseWrites ++ (init.flatMap byteWrites ++ byteWrites v)) ++ bitWrites false := by
    rw [packetWrites, packetBits, List.flatMap_append, List.flatMap_singleton]
  rw [hwrites, engineWrites_append, stopBit_transfer hlast.not_receiving, ← List.append_assoc bytes]
  exact hlast

end

/-! ## The packets of a command -/

theorem length_flatten_of_forall {ds : List (List Byte)} (h : ∀ d ∈ ds, d.length = 16) :
    ds.flatten.length = 16 * ds.length := by
  induction ds with
  | nil => rfl
  | cons d ds ih =>
    rw [List.flatten_cons, List.length_append, h d (by simp), ih fun d hd => h d (by simp [hd]), List.length_cons]
    omega

section
variable {c : Config} {r : SgbRun} {ds : List (List Byte)} {header : Byte}
  (hds : ∀ d ∈ ds, d.length = 16) (hcount : numPackets c header = ds.length) (h7 : ds.length ≤ 7)
  (hheader : ds.flatten[0]? = some header)
include hds

theorem length_flatten_take {k : Nat} (hk : k ≤ ds.length) : (ds.take k).flatten.length = 16 * k := by
  rw [length_flatten_of_forall fun d hd => hds d (List.mem_of_mem_take hd), List.length_take, Nat.min_eq_left hk]

include hcount h7 hheader

/-- The packet after `k` packets. -/
theorem Transfer.Ready.packet_succ {k : Nat} (hk : k < ds.length)
    (h : (engineWrites c ((ds.take k).flatMap packetWrites) r).transfer.Ready ds.length (ds.take k).flatten) :
    (engineWrites c ((ds.take (k + 1)).flatMap packetWrites) r).transfer.AfterPacket ds.length (ds.take (k + 1)).flatten
      (BitVec.ofNat 5 (header.toNat / 8)) := by
  have hlen := length_flatten_take hds (Nat.le_of_lt hk)
  have hd : ds[k].length = 16 := hds _ (List.getElem_mem hk)
  have htake : (ds.take (k + 1)).flatten = (ds.take k).flatten ++ ds[k] := by
    rw [List.take_succ_eq_append_getElem hk, List.flatten_append, List.flatten_singleton]
  have hfirst : ((ds.take k).flatten ++ ds[k])[0]? = some header := by
    rw [← List.take_append_drop (k + 1) ds, List.flatten_append, htake] at hheader
    rwa [List.getElem?_append_left (by rw [List.length_append]; omega)] at hheader
  rw [htake, List.take_succ_eq_append_getElem hk, List.flatMap_append, List.flatMap_singleton, engineWrites_append]
  exact h.packet hcount h7 hd (by omega) (by omega) hfirst

/-- Before the last packet the engine is ready for the next one. -/
theorem ready_of_lt (hs : r.sgb.sending = false) (he : r.events = []) {k : Nat} (hk : k < ds.length) :
    (engineWrites c ((ds.take k).flatMap packetWrites) r).transfer.Ready ds.length (ds.take k).flatten := by
  induction k with
  | zero => exact .idle hs he
  | succ k ih =>
    have hafter := (ih (by omega)).packet_succ hds hcount h7 hheader (by omega)
    refine .between (hafter.waiting ?_)
    rw [length_flatten_take hds (by omega)]
    omega

end

/-! ## The obligation -/

/-- Settles O59: by induction over the packets the engine is ready for each of them, and the packet after which the
bytes fill the count is the last. -/
theorem completeTransfersReturnToIdle : Obligations.CompleteTransfersReturnToIdle := by
  unfold Obligations.CompleteTransfersReturnToIdle
  intro c g n ds header tail rest hc _ hs hds hfirst hlen k hk1 hk r
  have hcount : numPackets c header = ds.length := by rw [numPackets_eq, hlen]
  have h7 : ds.length ≤ 7 := by
    obtain ⟨-, hle⟩ := numPackets_le hc header
    rwa [hcount] at hle
  have hheader : ds.flatten[0]? = some header := by
    rw [hfirst]
    rfl
  obtain ⟨j, rfl⟩ : ∃ j, k = j + 1 := ⟨k - 1, by omega⟩
  have hready := ready_of_lt (r := ⟨g, n, []⟩) hds hcount h7 hheader hs rfl (k := j) (by omega)
  have hafter : r.transfer.AfterPacket ds.length (ds.take (j + 1)).flatten _ :=
    hready.packet_succ hds hcount h7 hheader (by omega)
  have hbytes := length_flatten_take hds hk
  by_cases hlast : j + 1 = ds.length
  · have hdone := hafter.done (by rw [hbytes, hlast])
    have hall : ds.take (j + 1) = ds := List.take_of_length_le (Nat.le_of_eq hlast.symm)
    refine ⟨hdone.currbit, hdone.currbyte, hdone.currpacket.trans hlast.symm, hdone.numpackets,
      fun hlt => absurd hlast (Nat.ne_of_lt hlt), fun _ => ⟨hdone.sending, hdone.waitReset, ?_⟩⟩
    have hevents := hdone.events
    rwa [hall] at hevents
  · have hwait := hafter.waiting (by omega)
    have hpacket : 16 * r.sgb.currpacket = 16 * (j + 1) := hwait.currpacket.trans hbytes
    exact ⟨hwait.currbit, hwait.currbyte, by omega, hwait.holds.numpackets (by omega),
      fun _ => ⟨hwait.sending, hwait.waitReset, hwait.holds.events⟩, fun h => absurd h hlast⟩

end Sys2Proof.Machine
end
